-- ==== Sys2Proof/Word.lean ====
section
/-!
DEFINITION. The words of Nes3-CORE (spec 00_scope.md R7, 30_encoding.md R50): an 8-bit cell or register, a 16-bit
command field, and the 48-bit command word.  Addresses are natural numbers (20_memory.md R47), so they have no word type.
-/

namespace Sys2Proof

/-- A register or a memory cell: 8 bits (R7, R10, R17). -/
abbrev Byte := BitVec 8

/-- The `arg` or the `val` field of a command: 16 bits (R7, R55). -/
abbrev Half := BitVec 16

/-- A command: one 48-bit word (R50). -/
abbrev CommandWord := BitVec 48

end Sys2Proof
end

