-- ==== Sys2Proof/Config.lean ====
section
/-!
DEFINITION. The configuration of spec 00_scope.md R6 (the six parameters, every value of each), its defaults, and the
one value the spec leaves open at run time (`rdata` outside an OK MEMRD, 30_encoding.md R62): a free value with no body.
-/

namespace Sys2Proof

/-- `NFLAG_RULE` (R6, R15): how SetReg computes the negative flag. -/
inductive NFlagRule where
  | bit7
  | byteFF
deriving DecidableEq, Repr

/-- `ARITH_PROFILE` (R6, R110, R111): clamp and simplified overflow, or the real 6502's wrap and signed overflow. -/
inductive ArithProfile where
  | documented
  | mos6502
deriving DecidableEq, Repr

/-- `INCDEC_EDGE` (R6, R130, R131): whether INC of 0xFF and DEC of 0x00 fault or wrap. -/
inductive IncDecEdge where
  | fault
  | wrap
deriving DecidableEq, Repr

/-- The configuration a model of Nes3-CORE takes (R6), fixed before reset and changed by no command (R201). -/
structure Config where
  memSize : Nat
  nflagRule : NFlagRule
  arithProfile : ArithProfile
  incDecEdge : IncDecEdge
  extIncDec : Bool
  extAlu : Bool
deriving DecidableEq, Repr

/-- The first value of each row of R6's table (log entry 14). -/
def Config.default : Config where
  memSize := 0xFFFF
  nflagRule := .bit7
  arithProfile := .documented
  incDecEdge := .fault
  extIncDec := true
  extAlu := true

/-- FREE VALUE (R62, R70; 93_implementation_defined.md I12: "any value"; log entry 6): the byte on `rdata` in the n-th
response that defines none.  No body: nothing is known of it. -/
opaque Config.freeRdata : Nat → Byte

end Sys2Proof
end

