-- ==== Sys2Proof/Syntax.lean ====
section
/-!
DEFINITION. The syntax of Nes3-CORE's commands: one constructor of `Instr` per row of spec/opcode_table.json (69 rows),
with the row's free fields as arguments (spec 30_encoding.md R51 to R57, R63, R64).
-/

namespace Sys2Proof

/-- The general registers (R10), numbered 0, 1, 2 in the `reg` field (R53). -/
inductive Reg where
  | a
  | x
  | y
deriving DecidableEq, Repr

/-- The index register of the absolute-indexed form (R54): `idx` 0 = X, 1 = Y. -/
inductive Idx where
  | x
  | y
deriving DecidableEq, Repr

/-- The five addressing forms that have an operand (R52, R48). -/
inductive Form where
  | imm
  | abs
  | absIdx (idx : Idx)
  | indX
  | indY
deriving DecidableEq, Repr

/-- The commands.  `arg` is the address, or the 16-bit literal of a LOAD; `m` is the 8-bit literal of ADC, SBC, AND,
ORA, EOR (R55); `val` is the 16-bit value of MEMWR. -/
inductive Instr where
  /-- MEMRD, absolute form (R70). -/
  | memrd (arg : Half)
  /-- MEMWR, absolute form (R71). -/
  | memwr (arg : Half) (val : Half)
  /-- LDA, immediate form (R82). -/
  | ldaImm (arg : Half)
  /-- LDA, absolute form (R83). -/
  | ldaAbs (arg : Half)
  /-- LDA, absolute-indexed form (R84). -/
  | ldaAbsIdx (idx : Idx) (arg : Half)
  /-- LDA, indexed-indirect form (R85). -/
  | ldaIndX (arg : Half)
  /-- LDA, indirect-indexed form (R86). -/
  | ldaIndY (arg : Half)
  /-- LDX, immediate form (R87). -/
  | ldxImm (arg : Half)
  /-- LDX, absolute form (R88). -/
  | ldxAbs (arg : Half)
  /-- LDX, absolute-indexed form (R89). -/
  | ldxAbsIdx (idx : Idx) (arg : Half)
  /-- LDX, indexed-indirect form (R90). -/
  | ldxIndX (arg : Half)
  /-- LDX, indirect-indexed form (R91). -/
  | ldxIndY (arg : Half)
  /-- LDY, immediate form (R92). -/
  | ldyImm (arg : Half)
  /-- LDY, absolute form (R93). -/
  | ldyAbs (arg : Half)
  /-- LDY, absolute-indexed form (R94). -/
  | ldyAbsIdx (idx : Idx) (arg : Half)
  /-- LDY, indexed-indirect form (R95). -/
  | ldyIndX (arg : Half)
  /-- LDY, indirect-indexed form (R96). -/
  | ldyIndY (arg : Half)
  /-- STA, immediate form (R97). -/
  | staImm (arg : Half)
  /-- STA, absolute form (R98). -/
  | staAbs (arg : Half)
  /-- STA, absolute-indexed form (R99). -/
  | staAbsIdx (idx : Idx) (arg : Half)
  /-- STA, indexed-indirect form (R100). -/
  | staIndX (arg : Half)
  /-- STA, indirect-indexed form (R101). -/
  | staIndY (arg : Half)
  /-- STX, immediate form (R102). -/
  | stxImm (arg : Half)
  /-- STX, absolute form (R103). -/
  | stxAbs (arg : Half)
  /-- STX, absolute-indexed form (R104). -/
  | stxAbsIdx (idx : Idx) (arg : Half)
  /-- STY, immediate form (R105). -/
  | styImm (arg : Half)
  /-- STY, absolute form (R106). -/
  | styAbs (arg : Half)
  /-- STY, absolute-indexed form (R107). -/
  | styAbsIdx (idx : Idx) (arg : Half)
  /-- ADC, immediate form (R113). -/
  | adcImm (m : Byte)
  /-- ADC, absolute form (R114). -/
  | adcAbs (arg : Half)
  /-- ADC, absolute-indexed form (R115). -/
  | adcAbsIdx (idx : Idx) (arg : Half)
  /-- ADC, indexed-indirect form (R116). -/
  | adcIndX (arg : Half)
  /-- ADC, indirect-indexed form (R117). -/
  | adcIndY (arg : Half)
  /-- SBC, immediate form (R118). -/
  | sbcImm (m : Byte)
  /-- SBC, absolute form (R119). -/
  | sbcAbs (arg : Half)
  /-- SBC, absolute-indexed form (R120). -/
  | sbcAbsIdx (idx : Idx) (arg : Half)
  /-- SBC, indexed-indirect form (R121). -/
  | sbcIndX (arg : Half)
  /-- SBC, indirect-indexed form (R122). -/
  | sbcIndY (arg : Half)
  /-- INC, immediate form (R132). -/
  | incImm (arg : Half)
  /-- INC, absolute form (R133). -/
  | incAbs (arg : Half)
  /-- INC, absolute-indexed form (R134). -/
  | incAbsIdx (idx : Idx) (arg : Half)
  /-- INC, indexed-indirect form (R135). -/
  | incIndX (arg : Half)
  /-- INC, indirect-indexed form (R136). -/
  | incIndY (arg : Half)
  /-- DEC, immediate form (R137). -/
  | decImm (arg : Half)
  /-- DEC, absolute form (R138). -/
  | decAbs (arg : Half)
  /-- DEC, absolute-indexed form (R139). -/
  | decAbsIdx (idx : Idx) (arg : Half)
  /-- DEC, indexed-indirect form (R140). -/
  | decIndX (arg : Half)
  /-- DEC, indirect-indexed form (R141). -/
  | decIndY (arg : Half)
  /-- CLC, implied form (R142). -/
  | clc
  /-- SEC, implied form (R143). -/
  | sec
  /-- AND, immediate form (R151). -/
  | andImm (m : Byte)
  /-- AND, absolute form (R152). -/
  | andAbs (arg : Half)
  /-- AND, absolute-indexed form (R153). -/
  | andAbsIdx (idx : Idx) (arg : Half)
  /-- AND, indexed-indirect form (R154). -/
  | andIndX (arg : Half)
  /-- AND, indirect-indexed form (R155). -/
  | andIndY (arg : Half)
  /-- ORA, immediate form (R156). -/
  | oraImm (m : Byte)
  /-- ORA, absolute form (R157). -/
  | oraAbs (arg : Half)
  /-- ORA, absolute-indexed form (R158). -/
  | oraAbsIdx (idx : Idx) (arg : Half)
  /-- ORA, indexed-indirect form (R159). -/
  | oraIndX (arg : Half)
  /-- ORA, indirect-indexed form (R160). -/
  | oraIndY (arg : Half)
  /-- EOR, immediate form (R161). -/
  | eorImm (m : Byte)
  /-- EOR, absolute form (R162). -/
  | eorAbs (arg : Half)
  /-- EOR, absolute-indexed form (R163). -/
  | eorAbsIdx (idx : Idx) (arg : Half)
  /-- EOR, indexed-indirect form (R164). -/
  | eorIndX (arg : Half)
  /-- EOR, indirect-indexed form (R165). -/
  | eorIndY (arg : Half)
  /-- ASL, accumulator form (R166). -/
  | aslAcc
  /-- LSR, accumulator form (R167). -/
  | lsrAcc
  /-- ROL, accumulator form (R168). -/
  | rolAcc
  /-- ROR, accumulator form (R169). -/
  | rorAcc
deriving DecidableEq, Repr

end Sys2Proof
end

