-- ==== Sys2Proof/WellFormed.lean ====
section
/-!
DEFINITION. What the spec asks of a configuration (20_memory.md R30) and of an instruction in a configuration
(30_encoding.md R57: the two extension parameters).  Every other condition of R56 is carried by the types of `Instr`:
its fields have the widths of R55 and no constructor stands for a refused triple (R58).
-/

namespace Sys2Proof

/-- R30: 0x1001 <= MEM_SIZE <= 0x10000. -/
def Config.wellFormed (cfg : Config) : Bool :=
  decide (0x1001 ≤ cfg.memSize) && decide (cfg.memSize ≤ 0x10000)

/-- The parameter that must be true for a row to be admitted (R57; the `param` column of the opcode table, R64). -/
inductive Admission where
  | always
  | extIncDec
  | extAlu
deriving DecidableEq, Repr

/-- The `param` column of spec/opcode_table.json, row by row. -/
def Instr.admission : Instr → Admission
  | .memrd _ | .memwr _ _ | .ldaImm _ | .ldaAbs _ | .ldaAbsIdx _ _ | .ldaIndX _ | .ldaIndY _ | .ldxImm _
  | .ldxAbs _ | .ldxAbsIdx _ _ | .ldxIndX _ | .ldxIndY _ | .ldyImm _ | .ldyAbs _ | .ldyAbsIdx _ _ | .ldyIndX _
  | .ldyIndY _ | .staImm _ | .staAbs _ | .staAbsIdx _ _ | .staIndX _ | .staIndY _ | .stxImm _ | .stxAbs _
  | .stxAbsIdx _ _ | .styImm _ | .styAbs _ | .styAbsIdx _ _ | .adcImm _ | .adcAbs _ | .adcAbsIdx _ _
  | .adcIndX _ | .adcIndY _ | .sbcImm _ | .sbcAbs _ | .sbcAbsIdx _ _ | .sbcIndX _ | .sbcIndY _ | .incImm _
  | .clc | .sec => .always
  | .incAbs _ | .incAbsIdx _ _ | .incIndX _ | .incIndY _ | .decImm _ | .decAbs _ | .decAbsIdx _ _ | .decIndX _
  | .decIndY _ => .extIncDec
  | .andImm _ | .andAbs _ | .andAbsIdx _ _ | .andIndX _ | .andIndY _ | .oraImm _ | .oraAbs _ | .oraAbsIdx _ _
  | .oraIndX _ | .oraIndY _ | .eorImm _ | .eorAbs _ | .eorAbsIdx _ _ | .eorIndX _ | .eorIndY _ | .aslAcc
  | .lsrAcc | .rolAcc | .rorAcc => .extAlu

/-- Whether the configuration admits the parameter (R57). -/
def Config.admits (cfg : Config) : Admission → Bool
  | .always => true
  | .extIncDec => cfg.extIncDec
  | .extAlu => cfg.extAlu

/-- An instruction is well-formed in a configuration when its row is admitted there (R56 condition 2, R57). -/
def Instr.wellFormed (cfg : Config) (i : Instr) : Bool :=
  cfg.admits i.admission

end Sys2Proof
end

