-- ==== Sys2Proof/Decode.lean ====
section
/-!
DEFINITION. The decoder of the 48-bit command word CMD48, total on every word and every configuration (spec
30_encoding.md R50 to R59), and after it the encoder, written from the same field tables (R50 to R55).
-/

namespace Sys2Proof

/-- The fields of a command word (R50). -/
structure Fields where
  op : BitVec 8
  mode : BitVec 4
  reg : BitVec 2
  idx : BitVec 1
  rsv : BitVec 1
  arg : Half
  val : Half
deriving DecidableEq, Repr

/-- `op` 47:40, `mode` 39:36, `reg` 35:34, `idx` 33, `rsv` 32, `arg` 31:16, `val` 15:0 (R50, R59). -/
def fieldsOf (w : CommandWord) : Fields where
  op := w.extractLsb' 40 8
  mode := w.extractLsb' 36 4
  reg := w.extractLsb' 34 2
  idx := w.extractLsb' 33 1
  rsv := w.extractLsb' 32 1
  arg := w.extractLsb' 16 16
  val := w.extractLsb' 0 16

/-- The word with these fields, the most significant first (R50). -/
def pack (f : Fields) : CommandWord :=
  f.op ++ f.mode ++ f.reg ++ f.idx ++ f.rsv ++ f.arg ++ f.val

/-- The `idx` field's two values (R54). -/
def Idx.bit : Idx → BitVec 1
  | .x => 0
  | .y => 1

/-- The index register an `idx` field names (R54). -/
def idxOfBit (b : BitVec 1) : Idx :=
  if b = 0 then .x else .y

/-- The operations whose IMM literal is one byte: ADC, SBC, AND, ORA, EOR (R55, R56 condition 8). -/
def byteLiteral (op : BitVec 8) : Bool :=
  op == 0x03 || op == 0x04 || op == 0x10 || op == 0x11 || op == 0x12

/-- The must-be-zero conditions of R56, numbers 3 to 8 (`reg` != 3 is `decodeOp`'s). -/
def mustBeZero (f : Fields) : Bool :=
  f.rsv == 0
    && (f.op == 0x01 || f.op == 0x02 || f.reg == 0)
    && (f.mode == 3 || f.idx == 0)
    && (f.op == 0x21 || f.val == 0)
    && (!(f.mode == 0 || f.mode == 6) || f.arg == 0)
    && (!(f.mode == 1 && byteLiteral f.op) || f.arg.extractLsb' 8 8 == 0)

/-- The five forms of an operation that has them all (R52, R57). -/
def decodeFive (f : Fields) (imm abs : Half → Instr) (absIdx : Idx → Half → Instr) (indX indY : Half → Instr) :
    Option Instr :=
  match f.mode.toNat with
  | 1 => some (imm f.arg)
  | 2 => some (abs f.arg)
  | 3 => some (absIdx (idxOfBit f.idx) f.arg)
  | 4 => some (indX f.arg)
  | 5 => some (indY f.arg)
  | _ => none

/-- The three forms of STX and STY; the two indirect ones are refused (R57, R58). -/
def decodeThree (f : Fields) (imm abs : Half → Instr) (absIdx : Idx → Half → Instr) : Option Instr :=
  match f.mode.toNat with
  | 1 => some (imm f.arg)
  | 2 => some (abs f.arg)
  | 3 => some (absIdx (idxOfBit f.idx) f.arg)
  | _ => none

/-- An operation with one form only (R57). -/
def decodeOne (f : Fields) (mode : Nat) (i : Instr) : Option Instr :=
  if f.mode.toNat = mode then some i else none

/-- LOAD of the register `reg` names (R53, R57). -/
def decodeLoad (f : Fields) : Option Instr :=
  match f.reg.toNat with
  | 0 => decodeFive f .ldaImm .ldaAbs .ldaAbsIdx .ldaIndX .ldaIndY
  | 1 => decodeFive f .ldxImm .ldxAbs .ldxAbsIdx .ldxIndX .ldxIndY
  | 2 => decodeFive f .ldyImm .ldyAbs .ldyAbsIdx .ldyIndX .ldyIndY
  | _ => none

/-- STORE of the register `reg` names (R53, R57, R58). -/
def decodeStore (f : Fields) : Option Instr :=
  match f.reg.toNat with
  | 0 => decodeFive f .staImm .staAbs .staAbsIdx .staIndX .staIndY
  | 1 => decodeThree f .stxImm .stxAbs .stxAbsIdx
  | 2 => decodeThree f .styImm .styAbs .styAbsIdx
  | _ => none

/-- The operations by their `op` value (R51), each with its admitted forms (R57, the parameters apart). -/
def decodeOp (f : Fields) : Option Instr :=
  match f.op.toNat with
  | 0x01 => decodeLoad f
  | 0x02 => decodeStore f
  | 0x03 => decodeFive f (fun arg => .adcImm (arg.setWidth 8)) .adcAbs .adcAbsIdx .adcIndX .adcIndY
  | 0x04 => decodeFive f (fun arg => .sbcImm (arg.setWidth 8)) .sbcAbs .sbcAbsIdx .sbcIndX .sbcIndY
  | 0x05 => decodeFive f .incImm .incAbs .incAbsIdx .incIndX .incIndY
  | 0x06 => decodeFive f .decImm .decAbs .decAbsIdx .decIndX .decIndY
  | 0x07 => decodeOne f 0 .clc
  | 0x08 => decodeOne f 0 .sec
  | 0x10 => decodeFive f (fun arg => .andImm (arg.setWidth 8)) .andAbs .andAbsIdx .andIndX .andIndY
  | 0x11 => decodeFive f (fun arg => .oraImm (arg.setWidth 8)) .oraAbs .oraAbsIdx .oraIndX .oraIndY
  | 0x12 => decodeFive f (fun arg => .eorImm (arg.setWidth 8)) .eorAbs .eorAbsIdx .eorIndX .eorIndY
  | 0x13 => decodeOne f 6 .aslAcc
  | 0x14 => decodeOne f 6 .lsrAcc
  | 0x15 => decodeOne f 6 .rolAcc
  | 0x16 => decodeOne f 6 .rorAcc
  | 0x20 => decodeOne f 2 (.memrd f.arg)
  | 0x21 => decodeOne f 2 (.memwr f.arg f.val)
  | _ => none

/-- The command with these fields when every extension is on (R56, R59). -/
def decodeFields (f : Fields) : Option Instr :=
  if mustBeZero f then decodeOp f else none

/-- R59: for every word and every configuration, a command of R57 or illegal (`none`). -/
def decode (cfg : Config) (w : CommandWord) : Option Instr :=
  match decodeFields (fieldsOf w) with
  | some i => if i.wellFormed cfg then some i else none
  | none => none

/-- The word of an instruction, field by field from R50 to R55. -/
def encode : Instr → CommandWord
  | .memrd arg => pack ⟨0x20, 2, 0, 0, 0, arg, 0⟩
  | .memwr arg val => pack ⟨0x21, 2, 0, 0, 0, arg, val⟩
  | .ldaImm arg => pack ⟨0x01, 1, 0, 0, 0, arg, 0⟩
  | .ldaAbs arg => pack ⟨0x01, 2, 0, 0, 0, arg, 0⟩
  | .ldaAbsIdx idx arg => pack ⟨0x01, 3, 0, idx.bit, 0, arg, 0⟩
  | .ldaIndX arg => pack ⟨0x01, 4, 0, 0, 0, arg, 0⟩
  | .ldaIndY arg => pack ⟨0x01, 5, 0, 0, 0, arg, 0⟩
  | .ldxImm arg => pack ⟨0x01, 1, 1, 0, 0, arg, 0⟩
  | .ldxAbs arg => pack ⟨0x01, 2, 1, 0, 0, arg, 0⟩
  | .ldxAbsIdx idx arg => pack ⟨0x01, 3, 1, idx.bit, 0, arg, 0⟩
  | .ldxIndX arg => pack ⟨0x01, 4, 1, 0, 0, arg, 0⟩
  | .ldxIndY arg => pack ⟨0x01, 5, 1, 0, 0, arg, 0⟩
  | .ldyImm arg => pack ⟨0x01, 1, 2, 0, 0, arg, 0⟩
  | .ldyAbs arg => pack ⟨0x01, 2, 2, 0, 0, arg, 0⟩
  | .ldyAbsIdx idx arg => pack ⟨0x01, 3, 2, idx.bit, 0, arg, 0⟩
  | .ldyIndX arg => pack ⟨0x01, 4, 2, 0, 0, arg, 0⟩
  | .ldyIndY arg => pack ⟨0x01, 5, 2, 0, 0, arg, 0⟩
  | .staImm arg => pack ⟨0x02, 1, 0, 0, 0, arg, 0⟩
  | .staAbs arg => pack ⟨0x02, 2, 0, 0, 0, arg, 0⟩
  | .staAbsIdx idx arg => pack ⟨0x02, 3, 0, idx.bit, 0, arg, 0⟩
  | .staIndX arg => pack ⟨0x02, 4, 0, 0, 0, arg, 0⟩
  | .staIndY arg => pack ⟨0x02, 5, 0, 0, 0, arg, 0⟩
  | .stxImm arg => pack ⟨0x02, 1, 1, 0, 0, arg, 0⟩
  | .stxAbs arg => pack ⟨0x02, 2, 1, 0, 0, arg, 0⟩
  | .stxAbsIdx idx arg => pack ⟨0x02, 3, 1, idx.bit, 0, arg, 0⟩
  | .styImm arg => pack ⟨0x02, 1, 2, 0, 0, arg, 0⟩
  | .styAbs arg => pack ⟨0x02, 2, 2, 0, 0, arg, 0⟩
  | .styAbsIdx idx arg => pack ⟨0x02, 3, 2, idx.bit, 0, arg, 0⟩
  | .adcImm m => pack ⟨0x03, 1, 0, 0, 0, (m.setWidth 16), 0⟩
  | .adcAbs arg => pack ⟨0x03, 2, 0, 0, 0, arg, 0⟩
  | .adcAbsIdx idx arg => pack ⟨0x03, 3, 0, idx.bit, 0, arg, 0⟩
  | .adcIndX arg => pack ⟨0x03, 4, 0, 0, 0, arg, 0⟩
  | .adcIndY arg => pack ⟨0x03, 5, 0, 0, 0, arg, 0⟩
  | .sbcImm m => pack ⟨0x04, 1, 0, 0, 0, (m.setWidth 16), 0⟩
  | .sbcAbs arg => pack ⟨0x04, 2, 0, 0, 0, arg, 0⟩
  | .sbcAbsIdx idx arg => pack ⟨0x04, 3, 0, idx.bit, 0, arg, 0⟩
  | .sbcIndX arg => pack ⟨0x04, 4, 0, 0, 0, arg, 0⟩
  | .sbcIndY arg => pack ⟨0x04, 5, 0, 0, 0, arg, 0⟩
  | .incImm arg => pack ⟨0x05, 1, 0, 0, 0, arg, 0⟩
  | .incAbs arg => pack ⟨0x05, 2, 0, 0, 0, arg, 0⟩
  | .incAbsIdx idx arg => pack ⟨0x05, 3, 0, idx.bit, 0, arg, 0⟩
  | .incIndX arg => pack ⟨0x05, 4, 0, 0, 0, arg, 0⟩
  | .incIndY arg => pack ⟨0x05, 5, 0, 0, 0, arg, 0⟩
  | .decImm arg => pack ⟨0x06, 1, 0, 0, 0, arg, 0⟩
  | .decAbs arg => pack ⟨0x06, 2, 0, 0, 0, arg, 0⟩
  | .decAbsIdx idx arg => pack ⟨0x06, 3, 0, idx.bit, 0, arg, 0⟩
  | .decIndX arg => pack ⟨0x06, 4, 0, 0, 0, arg, 0⟩
  | .decIndY arg => pack ⟨0x06, 5, 0, 0, 0, arg, 0⟩
  | .clc => pack ⟨0x07, 0, 0, 0, 0, 0, 0⟩
  | .sec => pack ⟨0x08, 0, 0, 0, 0, 0, 0⟩
  | .andImm m => pack ⟨0x10, 1, 0, 0, 0, (m.setWidth 16), 0⟩
  | .andAbs arg => pack ⟨0x10, 2, 0, 0, 0, arg, 0⟩
  | .andAbsIdx idx arg => pack ⟨0x10, 3, 0, idx.bit, 0, arg, 0⟩
  | .andIndX arg => pack ⟨0x10, 4, 0, 0, 0, arg, 0⟩
  | .andIndY arg => pack ⟨0x10, 5, 0, 0, 0, arg, 0⟩
  | .oraImm m => pack ⟨0x11, 1, 0, 0, 0, (m.setWidth 16), 0⟩
  | .oraAbs arg => pack ⟨0x11, 2, 0, 0, 0, arg, 0⟩
  | .oraAbsIdx idx arg => pack ⟨0x11, 3, 0, idx.bit, 0, arg, 0⟩
  | .oraIndX arg => pack ⟨0x11, 4, 0, 0, 0, arg, 0⟩
  | .oraIndY arg => pack ⟨0x11, 5, 0, 0, 0, arg, 0⟩
  | .eorImm m => pack ⟨0x12, 1, 0, 0, 0, (m.setWidth 16), 0⟩
  | .eorAbs arg => pack ⟨0x12, 2, 0, 0, 0, arg, 0⟩
  | .eorAbsIdx idx arg => pack ⟨0x12, 3, 0, idx.bit, 0, arg, 0⟩
  | .eorIndX arg => pack ⟨0x12, 4, 0, 0, 0, arg, 0⟩
  | .eorIndY arg => pack ⟨0x12, 5, 0, 0, 0, arg, 0⟩
  | .aslAcc => pack ⟨0x13, 6, 0, 0, 0, 0, 0⟩
  | .lsrAcc => pack ⟨0x14, 6, 0, 0, 0, 0, 0⟩
  | .rolAcc => pack ⟨0x15, 6, 0, 0, 0, 0, 0⟩
  | .rorAcc => pack ⟨0x16, 6, 0, 0, 0, 0, 0⟩

/-- The command word whose bits the opcode table numbers as `w`: CMD48 is one word, bit 0 its least significant bit
(R50, R64; log entry 10). -/
def tableWord (nbits w : Nat) : CommandWord :=
  BitVec.ofNat 48 (w % 2 ^ nbits)

/-- What the decoder reads, in the default configuration, from a word numbered as spec/opcode_table.json numbers it. -/
def decodeTableWord (nbits w : Nat) : Option Instr :=
  decode Config.default (tableWord nbits w)

end Sys2Proof
end

