-- ==== Sys2Proof/Machine/Flags.lean ====
section
/-!
DEFINITION. Every flag and result computation of the spec as plain arithmetic: the negative rule of SetReg (10_state.md
R15), ADC and SBC (42_adc_sbc.md R110, R111), the edge rule of INC and DEC (43_inc_dec_flagops.md R130, R131), and the
shifts and rotates (44_logic_shift_ext.md R166 to R169).
-/

namespace Sys2Proof.Machine

/-- R15, for 0 <= v <= 255. -/
def negRule (rule : NFlagRule) (v : Nat) : Bool :=
  match rule with
  | .bit7 => v.testBit 7
  | .byteFF => v &&& 0xFF == 0xFF

/-- R110: `raw <- A + m + C`. -/
def adcRaw (a m : Byte) (c : Bool) : Nat := a.toNat + m.toNat + c.toNat

/-- R110: the committed sum, clamped or wrapped. -/
def adcResult (profile : ArithProfile) (raw : Nat) : Nat :=
  match profile with
  | .documented => min 255 raw
  | .mos6502 => raw % 256

/-- The simplified overflow rule: bit 7 of the old accumulator differs from bit 7 of the committed byte (R110, R111). -/
def signChange (a : Byte) (res : Nat) : Bool := a.toNat.testBit 7 != res.testBit 7

/-- R110: the overflow flag of ADC. -/
def adcOverflow (profile : ArithProfile) (a m : Byte) (res : Nat) : Bool :=
  match profile with
  | .documented => signChange a res
  | .mos6502 => (a.toNat ^^^ res) &&& (m.toNat ^^^ res) &&& 0x80 != 0

/-- R111: `raw <- A - m - (1 - C)`, an integer. -/
def sbcRaw (a m : Byte) (c : Bool) : Int := (a.toNat : Int) - m.toNat - (1 - c.toNat)

/-- R111: the committed difference, `raw mod 256`. -/
def sbcResult (raw : Int) : Nat := (raw % 256).toNat

/-- R111: the overflow flag of SBC. -/
def sbcOverflow (profile : ArithProfile) (a m : Byte) (res : Nat) : Bool :=
  match profile with
  | .documented => signChange a res
  | .mos6502 => (a.toNat ^^^ res) &&& (a.toNat ^^^ m.toNat) &&& 0x80 != 0

/-- R130, R131: the value INC or DEC hands to MemWrite. -/
def edgeValue (edge : IncDecEdge) (w : Int) : Int :=
  match edge with
  | .fault => w
  | .wrap => w % 256

/-- R166. -/
def aslResult (a : Byte) : Nat := (a.toNat <<< 1) &&& 0xFF

/-- R167. -/
def lsrResult (a : Byte) : Nat := a.toNat >>> 1

/-- R168: the old carry enters bit 0. -/
def rolResult (a : Byte) (c : Bool) : Nat := ((a.toNat <<< 1) &&& 0xFF) ||| c.toNat

/-- R169: the old carry enters bit 7. -/
def rorResult (a : Byte) (c : Bool) : Nat := (a.toNat >>> 1) ||| (c.toNat <<< 7)

end Sys2Proof.Machine
end

