-- ==== Sys2Proof/Machine/State.lean ====
section
/-!
DEFINITION. The state of Nes3-CORE (spec 10_state.md: three registers, four flags, the memory array), the configuration
it was constructed with, and the block's two ports: the host actions not yet taken and the last response.
-/

namespace Sys2Proof.Machine

/-- The four error kinds (60_exceptions.md R180).  Raising one is no stop of the machine: it is answered (R186). -/
inductive Err where
  /-- SetReg was given a value above 255 (R181). -/
  | registerOverflow
  /-- MemWrite was given a value outside 0 to 255 (R182). -/
  | memoryOverflow
  /-- An access at an address not below `MEM_SIZE` (R183). -/
  | outOfRange
  /-- The command word is not a legal command (R184). -/
  | illegalCommand
deriving DecidableEq, Repr

/-- The response to a command (30_encoding.md R62). -/
structure Response where
  err : BitVec 3
  rdata : Byte
deriving DecidableEq, Repr

/-- What the host can do to the block (00_scope.md R8): issue a command word, or assert one of the two resets of
70_reset_and_hazards.md R200; ResetAll constructs the block anew with a configuration (R201; log entry 7). -/
inductive HostEvent where
  | command (w : CommandWord)
  | resetCore
  | resetAll (cfg : Config)
deriving DecidableEq, Repr

/-- The cells that do not hold what an unlisted address reads as, by rising address (R17, R30). -/
abbrev Memory := List Host.Cell

/-- The whole machine.  `cfg` is the configuration (R6, log entry 1); `a` to `n` and `mem` are the architectural state
(R10, R12, R17); `events`, `resp` and `freeCtr` are the model's own (log entries 3, 5, 6). -/
structure State where
  cfg : Config
  a : Byte
  x : Byte
  y : Byte
  c : Bool
  v : Bool
  z : Bool
  n : Bool
  mem : Memory
  events : List HostEvent
  resp : Option Response
  freeCtr : Nat
deriving DecidableEq, Repr

/-- The block stops by no fault: every command has a response, an error included (R186; 93_implementation_defined.md:
"No behaviour in this block is treated as `stuck`"; log entry 2).  So there is no constructor. -/
inductive Fault
deriving DecidableEq, Repr

/-- Why the model refuses to go on. -/
inductive Refusal where
  /-- Raised by an arm of `exec` that has no meaning yet (none is left).  Safe. -/
  | notModelled (mnemonic : String)
  /-- Raised by `step` when `MEM_SIZE` is outside the bounds of 20_memory.md R30, in the configuration it runs in or
  in the one a ResetAll constructs: "A model refuses a configuration outside the bounds" (log entry 8).  Safe. -/
  | configurationOutOfBounds
deriving DecidableEq, Repr

/-- The block constructed with a configuration (ResetAll: R200, R23): every register, flag and cell zero. -/
def State.powerOn (cfg : Config) : State where
  cfg := cfg
  a := 0x00
  x := 0x00
  y := 0x00
  c := false
  v := false
  z := false
  n := false
  mem := []
  events := []
  resp := none
  freeCtr := 0

/-- The machine right after reset, in the default configuration (R23, R200; log entry 14), no host action waiting
(log entry 3). -/
def State.reset : State := State.powerOn Config.default

end Sys2Proof.Machine
end

