-- ==== Sys2Proof/Machine/Memory.lean ====
section
/-!
DEFINITION. The memory array as sorted (address, byte) pairs (spec 20_memory.md R30 to R34): reading and writing one
cell, the mirror partner, the write with its mirror, and the canonical form every operation keeps.
-/

namespace Sys2Proof.Machine

/-- What a cell that nothing has written holds (10_state.md R23, R24; log entry 15). -/
def unlistedByte : Byte := 0x00

/-- The cell at an address. -/
def Memory.read : Memory → Nat → Byte
  | [], _ => unlistedByte
  | (k, b) :: m, a => if a = k then b else Memory.read m a

/-- Every entry for an address taken out: the cell then reads as an unlisted one. -/
def Memory.erase : Memory → Nat → Memory
  | [], _ => []
  | (k, b) :: m, a => if a = k then Memory.erase m a else (k, b) :: Memory.erase m a

/-- An entry put at its place in the rising order. -/
def Memory.insert : Memory → Nat → Byte → Memory
  | [], a, v => [(a, v)]
  | (k, b) :: m, a, v =>
    if a < k then (a, v) :: (k, b) :: m
    else if a = k then (a, v) :: m
    else (k, b) :: Memory.insert m a v

/-- One cell set to a byte: the byte an unlisted address reads as is not listed, so equal memories are equal lists. -/
def Memory.write (m : Memory) (a : Nat) (v : Byte) : Memory :=
  if v = unlistedByte then Memory.erase m a else Memory.insert m a v

/-- The second cell a write at an address makes, if any (R32, R42). -/
def mirrorOf (a : Nat) : Option Nat :=
  if a ≤ 0x7FF then some (a + 0x801)
  else if 0x801 ≤ a ∧ a ≤ 0x2000 then some (a - 0x801)
  else none

/-- The committed write of R32: the cell, then its mirror partner as a plain cell update (R33). -/
def Memory.writeMirrored (m : Memory) (a : Nat) (v : Byte) : Memory :=
  match mirrorOf a with
  | some p => Memory.write (Memory.write m a v) p v
  | none => Memory.write m a v

/-- Addresses strictly rising from `lo` on, and no entry equal to what an unlisted address reads as. -/
def Memory.wfFrom : Nat → Memory → Bool
  | _, [] => true
  | lo, (k, b) :: m => decide (lo ≤ k) && (b != unlistedByte) && Memory.wfFrom (k + 1) m

/-- The canonical form: equal memories are equal lists. -/
def Memory.wf (m : Memory) : Bool := Memory.wfFrom 0 m

/-- Every listed cell exists: its address is below `n`. -/
def Memory.below (n : Nat) : Memory → Bool
  | [] => true
  | (k, _) :: m => decide (k < n) && Memory.below n m

end Sys2Proof.Machine
end

