-- ==== Sys2Proof/Machine/Ops.lean ====
section
/-!
DEFINITION. The named operations over registers, flags, memory and the response port: register reads, SetReg
(10_state.md R14), MemRead and MemWrite (20_memory.md R31, R32), answering a command (30_encoding.md R62), raising an
error (60_exceptions.md R186), and the two resets (70_reset_and_hazards.md R200).
-/

namespace Sys2Proof.Machine

/-- The outcome of a step or of a meaning. -/
abbrev Result := Host.Outcome State Fault Refusal

/-- `x[r]` (00_scope.md, notation). -/
def State.reg (s : State) : Reg → Byte
  | .a => s.a
  | .x => s.x
  | .y => s.y

/-- The index register of the absolute-indexed form (R48, R54). -/
def State.index (s : State) : Idx → Byte
  | .x => s.x
  | .y => s.y

/-- One register replaced. -/
def State.putReg (s : State) (r : Reg) (b : Byte) : State :=
  match r with
  | .a => { s with a := b }
  | .x => { s with x := b }
  | .y => { s with y := b }

/-- `Z` and `N` replaced. -/
def State.putZN (s : State) (z n : Bool) : State := { s with z := z, n := n }

/-- `C` replaced. -/
def State.putC (s : State) (c : Bool) : State := { s with c := c }

/-- `V` replaced. -/
def State.putV (s : State) (v : Bool) : State := { s with v := v }

/-- The memory array replaced. -/
def State.putMem (s : State) (m : Memory) : State := { s with mem := m }

/-- The waiting host actions replaced. -/
def State.putEvents (s : State) (es : List HostEvent) : State := { s with events := es }

/-- SetReg (R14): the value is validated, then the register, `Z` and `N` are written; `C` and `V` are not. -/
def setReg (r : Reg) (v : Nat) (s : State) : Except Err State :=
  if 255 < v then .error .registerOverflow
  else .ok ((s.putReg r (BitVec.ofNat 8 v)).putZN (v == 0) (negRule s.cfg.nflagRule v))

/-- MemRead (R31). -/
def memRead (s : State) (a : Nat) : Except Err Byte :=
  if s.cfg.memSize ≤ a then .error .outOfRange else .ok (s.mem.read a)

/-- MemWrite (R32): the value check, the address check, then the cell and its mirror partner in one update. -/
def memWrite (s : State) (a : Nat) (v : Int) : Except Err State :=
  if v < 0 ∨ 255 < v then .error .memoryOverflow
  else if s.cfg.memSize ≤ a then .error .outOfRange
  else .ok (s.putMem (s.mem.writeMirrored a (BitVec.ofInt 8 v)))

/-- The `err` code of a completed command (R180). -/
def errOk : BitVec 3 := 0

/-- The `err` codes of the four error kinds (R180). -/
def Err.code : Err → BitVec 3
  | .registerOverflow => 1
  | .memoryOverflow => 2
  | .outOfRange => 3
  | .illegalCommand => 4

/-- A response that defines no `rdata`: a free value stands on it (R62; log entry 6). -/
def State.answer (s : State) (err : BitVec 3) : State :=
  { s with resp := some ⟨err, Config.freeRdata s.freeCtr⟩, freeCtr := s.freeCtr + 1 }

/-- The response of an OK MEMRD: the byte read (R62, R70). -/
def State.answerData (s : State) (b : Byte) : State :=
  { s with resp := some ⟨errOk, b⟩ }

/-- `raise <Error>` (R186): the command ends, no architectural state changes, the response carries the code, and the
block keeps accepting commands (R186, R189: the outcome is a next state).  Nothing is saved and there is no return
(R187, R188). -/
def raiseError (e : Err) (s : State) : Result := .next (s.answer e.code)

/-- The end of a command begun in `s`: its state changes and an OK response, or the error it met (R185, R186). -/
def conclude (s : State) (r : Except Err State) : Result :=
  match r with
  | .ok t => .next (t.answer errOk)
  | .error e => raiseError e s

/-- ResetCore (R200): CpuCore::new on the existing Memory.  The last response is withdrawn (log entry 7). -/
def resetCore (s : State) : State :=
  { s with a := 0x00, x := 0x00, y := 0x00, c := false, v := false, z := false, n := false, resp := none }

/-- ResetAll (R200, R201): Memory::new, then CpuCore::new, with the configuration given; what the host still has to do
and the count of free values stay (log entry 7). -/
def resetAll (cfg : Config) (s : State) : State :=
  { State.powerOn cfg with events := s.events, freeCtr := s.freeCtr }

/-- The seven observation outputs (R21). -/
structure Outputs where
  a : Byte
  x : Byte
  y : Byte
  c : Bool
  v : Bool
  z : Bool
  n : Bool
deriving DecidableEq, Repr

/-- R21: the outputs always show the current state; reading them changes nothing. -/
def State.outputs (s : State) : Outputs := ⟨s.a, s.x, s.y, s.c, s.v, s.z, s.n⟩

end Sys2Proof.Machine
end

