-- ==== Sys2Proof/Machine/Operands.lean ====
section
/-!
DEFINITION. Every operand form: the three resolvers and the pointer read (spec 20_memory.md R35 to R38), the effective
address (R48, R49), the value a LOAD loads (41_load_store.md R80) and the operand byte of the ALU (42_adc_sbc.md R112).
-/

namespace Sys2Proof.Machine

/-- Read16 (R38): little-endian, the low byte read first. -/
def read16 (s : State) (a : Nat) : Except Err Nat :=
  (memRead s a).bind fun lo => (memRead s (a + 1)).bind fun hi => .ok (lo.toNat ||| (hi.toNat <<< 8))

/-- ResolveAbsIdx (R35): no wrap, no memory read. -/
def resolveAbsIdx (base : Half) (off : Byte) : Nat := base.toNat + off.toNat

/-- ResolveIndX (R36). -/
def resolveIndX (s : State) (addr : Half) (x : Byte) : Except Err Nat := read16 s (addr.toNat + x.toNat)

/-- ResolveIndY (R37): no wrap of the sum. -/
def resolveIndY (s : State) (addr : Half) (y : Byte) : Except Err Nat :=
  (read16 s addr.toNat).bind fun p => .ok (p + y.toNat)

/-- EA (R48), against the registers at the start of the command; IMM is the address itself (R49). -/
def ea (f : Form) (arg : Half) (s : State) : Except Err Nat :=
  match f with
  | .imm => .ok arg.toNat
  | .abs => .ok arg.toNat
  | .absIdx i => .ok (resolveAbsIdx arg (s.index i))
  | .indX => resolveIndX s arg s.x
  | .indY => resolveIndY s arg s.y

/-- The byte at the effective address. -/
def readAtEa (f : Form) (arg : Half) (s : State) : Except Err Byte :=
  (ea f arg s).bind fun a => memRead s a

/-- The value of a LOAD (R80): the 16-bit literal, or the byte at the effective address. -/
def loadValue (f : Form) (arg : Half) (s : State) : Except Err Nat :=
  match f with
  | .imm => .ok arg.toNat
  | .abs | .absIdx _ | .indX | .indY => (readAtEa f arg s).bind fun b => .ok b.toNat

/-- Operand (R112): `arg[7:0]`, or the byte at the effective address. -/
def operand (f : Form) (arg : Half) (s : State) : Except Err Byte :=
  match f with
  | .imm => .ok (arg.setWidth 8)
  | .abs | .absIdx _ | .indX | .indY => readAtEa f arg s

end Sys2Proof.Machine
end

