-- ==== Sys2Proof/Machine/Arith.lean ====
section
/-!
DEFINITION. ADC and SBC (spec 42_adc_sbc.md R110 to R122): the two cores, and one meaning per row over them.
-/

namespace Sys2Proof.Machine

/-- AdcCore (R110). -/
def adcCore (m : Byte) (s : State) : Except Err State :=
  let raw := adcRaw s.a m s.c
  let res := adcResult s.cfg.arithProfile raw
  setReg .a res ((s.putC (decide (255 < raw))).putV (adcOverflow s.cfg.arithProfile s.a m res))

/-- SbcCore (R111). -/
def sbcCore (m : Byte) (s : State) : Except Err State :=
  let raw := sbcRaw s.a m s.c
  let res := sbcResult raw
  setReg .a res ((s.putC (decide (0 ≤ raw))).putV (sbcOverflow s.cfg.arithProfile s.a m res))

/-- ADC: the operand first (R112), then the core. -/
def adc (f : Form) (arg : Half) (s : State) : Except Err State :=
  (operand f arg s).bind fun m => adcCore m s

/-- SBC: the operand first (R112), then the core. -/
def sbc (f : Form) (arg : Half) (s : State) : Except Err State :=
  (operand f arg s).bind fun m => sbcCore m s

/-- R113. -/
def execAdcImm (m : Byte) (s : State) : Result := conclude s (adc .imm (m.setWidth 16) s)

/-- R114. -/
def execAdcAbs (arg : Half) (s : State) : Result := conclude s (adc .abs arg s)

/-- R115. -/
def execAdcAbsIdx (idx : Idx) (arg : Half) (s : State) : Result := conclude s (adc (.absIdx idx) arg s)

/-- R116. -/
def execAdcIndX (arg : Half) (s : State) : Result := conclude s (adc .indX arg s)

/-- R117. -/
def execAdcIndY (arg : Half) (s : State) : Result := conclude s (adc .indY arg s)

/-- R118. -/
def execSbcImm (m : Byte) (s : State) : Result := conclude s (sbc .imm (m.setWidth 16) s)

/-- R119. -/
def execSbcAbs (arg : Half) (s : State) : Result := conclude s (sbc .abs arg s)

/-- R120. -/
def execSbcAbsIdx (idx : Idx) (arg : Half) (s : State) : Result := conclude s (sbc (.absIdx idx) arg s)

/-- R121. -/
def execSbcIndX (arg : Half) (s : State) : Result := conclude s (sbc .indX arg s)

/-- R122. -/
def execSbcIndY (arg : Half) (s : State) : Result := conclude s (sbc .indY arg s)

end Sys2Proof.Machine
end

