-- ==== Sys2Proof/Machine/HostAccess.lean ====
section
/-!
DEFINITION. MEMRD and MEMWR, the host's raw access to memory (spec 40_host_memory_access.md R70, R71).
-/

namespace Sys2Proof.Machine

/-- R70: a pure read; the byte stands on `rdata`. -/
def execMemrd (arg : Half) (s : State) : Result :=
  match memRead s arg.toNat with
  | .ok b => .next (s.answerData b)
  | .error e => raiseError e s

/-- R71: MemWrite of the whole 16-bit value, so that one above 0xFF is refused. -/
def execMemwr (arg val : Half) (s : State) : Result :=
  conclude s (memWrite s arg.toNat val.toNat)

end Sys2Proof.Machine
end

