-- ==== Sys2Proof/Machine/IncDec.lean ====
section
/-!
DEFINITION. INC, DEC, CLC, SEC (spec 43_inc_dec_flagops.md R129 to R143): the two cores, which write memory only (R129),
and one meaning per row.
-/

namespace Sys2Proof.Machine

/-- IncCore (R130). -/
def incCore (a : Nat) (s : State) : Except Err State :=
  (memRead s a).bind fun v => memWrite s a (edgeValue s.cfg.incDecEdge (v.toNat + 1))

/-- DecCore (R131). -/
def decCore (a : Nat) (s : State) : Except Err State :=
  (memRead s a).bind fun v => memWrite s a (edgeValue s.cfg.incDecEdge (v.toNat - 1))

/-- INC at the effective address of a form; IMM is an address (R49). -/
def inc (f : Form) (arg : Half) (s : State) : Except Err State :=
  (ea f arg s).bind fun a => incCore a s

/-- DEC at the effective address of a form; IMM is an address (R49). -/
def dec (f : Form) (arg : Half) (s : State) : Except Err State :=
  (ea f arg s).bind fun a => decCore a s

/-- R132. -/
def execIncImm (arg : Half) (s : State) : Result := conclude s (inc .imm arg s)

/-- R133. -/
def execIncAbs (arg : Half) (s : State) : Result := conclude s (inc .abs arg s)

/-- R134. -/
def execIncAbsIdx (idx : Idx) (arg : Half) (s : State) : Result := conclude s (inc (.absIdx idx) arg s)

/-- R135. -/
def execIncIndX (arg : Half) (s : State) : Result := conclude s (inc .indX arg s)

/-- R136. -/
def execIncIndY (arg : Half) (s : State) : Result := conclude s (inc .indY arg s)

/-- R137. -/
def execDecImm (arg : Half) (s : State) : Result := conclude s (dec .imm arg s)

/-- R138. -/
def execDecAbs (arg : Half) (s : State) : Result := conclude s (dec .abs arg s)

/-- R139. -/
def execDecAbsIdx (idx : Idx) (arg : Half) (s : State) : Result := conclude s (dec (.absIdx idx) arg s)

/-- R140. -/
def execDecIndX (arg : Half) (s : State) : Result := conclude s (dec .indX arg s)

/-- R141. -/
def execDecIndY (arg : Half) (s : State) : Result := conclude s (dec .indY arg s)

/-- R142. -/
def execClc (s : State) : Result := conclude s (.ok (s.putC false))

/-- R143. -/
def execSec (s : State) : Result := conclude s (.ok (s.putC true))

end Sys2Proof.Machine
end

