-- ==== Sys2Proof/Machine/LoadStore.lean ====
section
/-!
DEFINITION. LDA, LDX, LDY, STA, STX, STY (spec 41_load_store.md R80 to R107): two shared operations, and one meaning per
row over them.
-/

namespace Sys2Proof.Machine

/-- Load (R80): the address is resolved from the old registers, then SetReg runs. -/
def load (r : Reg) (f : Form) (arg : Half) (s : State) : Except Err State :=
  (loadValue f arg s).bind fun v => setReg r v s

/-- Store (R81): the register's value to the effective address, through MemWrite; no flag. -/
def store (r : Reg) (f : Form) (arg : Half) (s : State) : Except Err State :=
  (ea f arg s).bind fun a => memWrite s a (s.reg r).toNat

/-- R82. -/
def execLdaImm (arg : Half) (s : State) : Result := conclude s (load .a .imm arg s)

/-- R83. -/
def execLdaAbs (arg : Half) (s : State) : Result := conclude s (load .a .abs arg s)

/-- R84. -/
def execLdaAbsIdx (idx : Idx) (arg : Half) (s : State) : Result := conclude s (load .a (.absIdx idx) arg s)

/-- R85. -/
def execLdaIndX (arg : Half) (s : State) : Result := conclude s (load .a .indX arg s)

/-- R86. -/
def execLdaIndY (arg : Half) (s : State) : Result := conclude s (load .a .indY arg s)

/-- R87. -/
def execLdxImm (arg : Half) (s : State) : Result := conclude s (load .x .imm arg s)

/-- R88. -/
def execLdxAbs (arg : Half) (s : State) : Result := conclude s (load .x .abs arg s)

/-- R89. -/
def execLdxAbsIdx (idx : Idx) (arg : Half) (s : State) : Result := conclude s (load .x (.absIdx idx) arg s)

/-- R90. -/
def execLdxIndX (arg : Half) (s : State) : Result := conclude s (load .x .indX arg s)

/-- R91. -/
def execLdxIndY (arg : Half) (s : State) : Result := conclude s (load .x .indY arg s)

/-- R92. -/
def execLdyImm (arg : Half) (s : State) : Result := conclude s (load .y .imm arg s)

/-- R93. -/
def execLdyAbs (arg : Half) (s : State) : Result := conclude s (load .y .abs arg s)

/-- R94. -/
def execLdyAbsIdx (idx : Idx) (arg : Half) (s : State) : Result := conclude s (load .y (.absIdx idx) arg s)

/-- R95. -/
def execLdyIndX (arg : Half) (s : State) : Result := conclude s (load .y .indX arg s)

/-- R96. -/
def execLdyIndY (arg : Half) (s : State) : Result := conclude s (load .y .indY arg s)

/-- R97. -/
def execStaImm (arg : Half) (s : State) : Result := conclude s (store .a .imm arg s)

/-- R98. -/
def execStaAbs (arg : Half) (s : State) : Result := conclude s (store .a .abs arg s)

/-- R99. -/
def execStaAbsIdx (idx : Idx) (arg : Half) (s : State) : Result := conclude s (store .a (.absIdx idx) arg s)

/-- R100. -/
def execStaIndX (arg : Half) (s : State) : Result := conclude s (store .a .indX arg s)

/-- R101. -/
def execStaIndY (arg : Half) (s : State) : Result := conclude s (store .a .indY arg s)

/-- R102. -/
def execStxImm (arg : Half) (s : State) : Result := conclude s (store .x .imm arg s)

/-- R103. -/
def execStxAbs (arg : Half) (s : State) : Result := conclude s (store .x .abs arg s)

/-- R104. -/
def execStxAbsIdx (idx : Idx) (arg : Half) (s : State) : Result := conclude s (store .x (.absIdx idx) arg s)

/-- R105. -/
def execStyImm (arg : Half) (s : State) : Result := conclude s (store .y .imm arg s)

/-- R106. -/
def execStyAbs (arg : Half) (s : State) : Result := conclude s (store .y .abs arg s)

/-- R107. -/
def execStyAbsIdx (idx : Idx) (arg : Half) (s : State) : Result := conclude s (store .y (.absIdx idx) arg s)

end Sys2Proof.Machine
end

