-- ==== Sys2Proof/Machine/Logic.lean ====
section
/-!
DEFINITION. AND, ORA, EOR, ASL, LSR, ROL, ROR (spec 44_logic_shift_ext.md R150 to R169; log entry 11): results through
SetReg on the accumulator, and one meaning per row.
-/

namespace Sys2Proof.Machine

/-- AND: `SetReg(A, A & m)` (R150, R151). -/
def andLogic (f : Form) (arg : Half) (s : State) : Except Err State :=
  (operand f arg s).bind fun m => setReg .a (s.a.toNat &&& m.toNat) s

/-- ORA: `SetReg(A, A | m)` (R150, R156). -/
def oraLogic (f : Form) (arg : Half) (s : State) : Except Err State :=
  (operand f arg s).bind fun m => setReg .a (s.a.toNat ||| m.toNat) s

/-- EOR: `SetReg(A, A ^ m)` (R150, R161). -/
def eorLogic (f : Form) (arg : Half) (s : State) : Except Err State :=
  (operand f arg s).bind fun m => setReg .a (s.a.toNat ^^^ m.toNat) s

/-- A shift or rotate: the bit shifted out to `C`, then SetReg (R150). -/
def shift (out : Bool) (res : Nat) (s : State) : Except Err State :=
  setReg .a res (s.putC out)

/-- R151. -/
def execAndImm (m : Byte) (s : State) : Result := conclude s (andLogic .imm (m.setWidth 16) s)

/-- R152. -/
def execAndAbs (arg : Half) (s : State) : Result := conclude s (andLogic .abs arg s)

/-- R153. -/
def execAndAbsIdx (idx : Idx) (arg : Half) (s : State) : Result := conclude s (andLogic (.absIdx idx) arg s)

/-- R154. -/
def execAndIndX (arg : Half) (s : State) : Result := conclude s (andLogic .indX arg s)

/-- R155. -/
def execAndIndY (arg : Half) (s : State) : Result := conclude s (andLogic .indY arg s)

/-- R156. -/
def execOraImm (m : Byte) (s : State) : Result := conclude s (oraLogic .imm (m.setWidth 16) s)

/-- R157. -/
def execOraAbs (arg : Half) (s : State) : Result := conclude s (oraLogic .abs arg s)

/-- R158. -/
def execOraAbsIdx (idx : Idx) (arg : Half) (s : State) : Result := conclude s (oraLogic (.absIdx idx) arg s)

/-- R159. -/
def execOraIndX (arg : Half) (s : State) : Result := conclude s (oraLogic .indX arg s)

/-- R160. -/
def execOraIndY (arg : Half) (s : State) : Result := conclude s (oraLogic .indY arg s)

/-- R161. -/
def execEorImm (m : Byte) (s : State) : Result := conclude s (eorLogic .imm (m.setWidth 16) s)

/-- R162. -/
def execEorAbs (arg : Half) (s : State) : Result := conclude s (eorLogic .abs arg s)

/-- R163. -/
def execEorAbsIdx (idx : Idx) (arg : Half) (s : State) : Result := conclude s (eorLogic (.absIdx idx) arg s)

/-- R164. -/
def execEorIndX (arg : Half) (s : State) : Result := conclude s (eorLogic .indX arg s)

/-- R165. -/
def execEorIndY (arg : Half) (s : State) : Result := conclude s (eorLogic .indY arg s)

/-- R166. -/
def execAslAcc (s : State) : Result := conclude s (shift (s.a.toNat.testBit 7) (aslResult s.a) s)

/-- R167. -/
def execLsrAcc (s : State) : Result := conclude s (shift (s.a.toNat.testBit 0) (lsrResult s.a) s)

/-- R168. -/
def execRolAcc (s : State) : Result := conclude s (shift (s.a.toNat.testBit 7) (rolResult s.a s.c) s)

/-- R169. -/
def execRorAcc (s : State) : Result := conclude s (shift (s.a.toNat.testBit 0) (rorResult s.a s.c) s)

end Sys2Proof.Machine
end

