-- ==== Sys2Proof/Machine/Dispatch.lean ====
section
/-!
DEFINITION. One arm per constructor of Instr, each a direct call of that instruction's own meaning.
-/

namespace Sys2Proof.Machine

def exec (i : Instr) (s : State) : Host.Outcome State Fault Refusal :=
  match i with
  | .memrd arg => Sys2Proof.Machine.execMemrd arg s
  | .memwr arg val => Sys2Proof.Machine.execMemwr arg val s
  | .ldaImm arg => Sys2Proof.Machine.execLdaImm arg s
  | .ldaAbs arg => Sys2Proof.Machine.execLdaAbs arg s
  | .ldaAbsIdx idx arg => Sys2Proof.Machine.execLdaAbsIdx idx arg s
  | .ldaIndX arg => Sys2Proof.Machine.execLdaIndX arg s
  | .ldaIndY arg => Sys2Proof.Machine.execLdaIndY arg s
  | .ldxImm arg => Sys2Proof.Machine.execLdxImm arg s
  | .ldxAbs arg => Sys2Proof.Machine.execLdxAbs arg s
  | .ldxAbsIdx idx arg => Sys2Proof.Machine.execLdxAbsIdx idx arg s
  | .ldxIndX arg => Sys2Proof.Machine.execLdxIndX arg s
  | .ldxIndY arg => Sys2Proof.Machine.execLdxIndY arg s
  | .ldyImm arg => Sys2Proof.Machine.execLdyImm arg s
  | .ldyAbs arg => Sys2Proof.Machine.execLdyAbs arg s
  | .ldyAbsIdx idx arg => Sys2Proof.Machine.execLdyAbsIdx idx arg s
  | .ldyIndX arg => Sys2Proof.Machine.execLdyIndX arg s
  | .ldyIndY arg => Sys2Proof.Machine.execLdyIndY arg s
  | .staImm arg => Sys2Proof.Machine.execStaImm arg s
  | .staAbs arg => Sys2Proof.Machine.execStaAbs arg s
  | .staAbsIdx idx arg => Sys2Proof.Machine.execStaAbsIdx idx arg s
  | .staIndX arg => Sys2Proof.Machine.execStaIndX arg s
  | .staIndY arg => Sys2Proof.Machine.execStaIndY arg s
  | .stxImm arg => Sys2Proof.Machine.execStxImm arg s
  | .stxAbs arg => Sys2Proof.Machine.execStxAbs arg s
  | .stxAbsIdx idx arg => Sys2Proof.Machine.execStxAbsIdx idx arg s
  | .styImm arg => Sys2Proof.Machine.execStyImm arg s
  | .styAbs arg => Sys2Proof.Machine.execStyAbs arg s
  | .styAbsIdx idx arg => Sys2Proof.Machine.execStyAbsIdx idx arg s
  | .adcImm m => Sys2Proof.Machine.execAdcImm m s
  | .adcAbs arg => Sys2Proof.Machine.execAdcAbs arg s
  | .adcAbsIdx idx arg => Sys2Proof.Machine.execAdcAbsIdx idx arg s
  | .adcIndX arg => Sys2Proof.Machine.execAdcIndX arg s
  | .adcIndY arg => Sys2Proof.Machine.execAdcIndY arg s
  | .sbcImm m => Sys2Proof.Machine.execSbcImm m s
  | .sbcAbs arg => Sys2Proof.Machine.execSbcAbs arg s
  | .sbcAbsIdx idx arg => Sys2Proof.Machine.execSbcAbsIdx idx arg s
  | .sbcIndX arg => Sys2Proof.Machine.execSbcIndX arg s
  | .sbcIndY arg => Sys2Proof.Machine.execSbcIndY arg s
  | .incImm arg => Sys2Proof.Machine.execIncImm arg s
  | .incAbs arg => Sys2Proof.Machine.execIncAbs arg s
  | .incAbsIdx idx arg => Sys2Proof.Machine.execIncAbsIdx idx arg s
  | .incIndX arg => Sys2Proof.Machine.execIncIndX arg s
  | .incIndY arg => Sys2Proof.Machine.execIncIndY arg s
  | .decImm arg => Sys2Proof.Machine.execDecImm arg s
  | .decAbs arg => Sys2Proof.Machine.execDecAbs arg s
  | .decAbsIdx idx arg => Sys2Proof.Machine.execDecAbsIdx idx arg s
  | .decIndX arg => Sys2Proof.Machine.execDecIndX arg s
  | .decIndY arg => Sys2Proof.Machine.execDecIndY arg s
  | .clc => Sys2Proof.Machine.execClc s
  | .sec => Sys2Proof.Machine.execSec s
  | .andImm m => Sys2Proof.Machine.execAndImm m s
  | .andAbs arg => Sys2Proof.Machine.execAndAbs arg s
  | .andAbsIdx idx arg => Sys2Proof.Machine.execAndAbsIdx idx arg s
  | .andIndX arg => Sys2Proof.Machine.execAndIndX arg s
  | .andIndY arg => Sys2Proof.Machine.execAndIndY arg s
  | .oraImm m => Sys2Proof.Machine.execOraImm m s
  | .oraAbs arg => Sys2Proof.Machine.execOraAbs arg s
  | .oraAbsIdx idx arg => Sys2Proof.Machine.execOraAbsIdx idx arg s
  | .oraIndX arg => Sys2Proof.Machine.execOraIndX arg s
  | .oraIndY arg => Sys2Proof.Machine.execOraIndY arg s
  | .eorImm m => Sys2Proof.Machine.execEorImm m s
  | .eorAbs arg => Sys2Proof.Machine.execEorAbs arg s
  | .eorAbsIdx idx arg => Sys2Proof.Machine.execEorAbsIdx idx arg s
  | .eorIndX arg => Sys2Proof.Machine.execEorIndX arg s
  | .eorIndY arg => Sys2Proof.Machine.execEorIndY arg s
  | .aslAcc => Sys2Proof.Machine.execAslAcc s
  | .lsrAcc => Sys2Proof.Machine.execLsrAcc s
  | .rolAcc => Sys2Proof.Machine.execRolAcc s
  | .rorAcc => Sys2Proof.Machine.execRorAcc s

end Sys2Proof.Machine
end

