-- ==== Sys2Proof/Machine/HostPort.lean ====
section
/-!
DEFINITION. What the block does with one host action (spec 00_scope.md R8, 30_encoding.md R59, 60_exceptions.md R184,
70_reset_and_hazards.md R200): decode and run a command word, or perform one of the two resets.
-/

namespace Sys2Proof.Machine

/-- A command word: the command it is, or `IllegalCommand`, decided before any state is read (R59, R184, R185). -/
def runCommand (w : CommandWord) (s : State) : Result :=
  match decode s.cfg w with
  | some i => exec i s
  | none => raiseError .illegalCommand s

/-- One host action (log entries 3, 7, 8). -/
def runEvent (e : HostEvent) (s : State) : Result :=
  match e with
  | .command w => runCommand w s
  | .resetCore => .next (resetCore s)
  | .resetAll cfg =>
    if cfg.wellFormed then .next (resetAll cfg s) else .refused .configurationOutOfBounds

/-- The oldest host action is taken and done; with none waiting the block idles (log entry 4).
What the last command answered is not looked at: the block keeps accepting commands after an error (R189). -/
def takeEvent (s : State) : Result :=
  match s.events with
  | [] => .next s
  | e :: es => runEvent e (s.putEvents es)

end Sys2Proof.Machine
end

