-- ==== Sys2Proof/Machine/Step.lean ====
section
/-!
DEFINITION. One step of the block: one host action, in a configuration the spec allows (20_memory.md R30).
-/

namespace Sys2Proof.Machine

/-- A configuration outside R30's bounds is refused; otherwise the oldest host action is done. -/
def step (s : State) : Host.Outcome State Fault Refusal :=
  if s.cfg.wellFormed then takeEvent s else .refused .configurationOutOfBounds

/-- The command, issued by the host before anything else it still has to do (log entry 10): the next step runs it. -/
def State.withFetchWord (s : State) (nbits w : Nat) : State :=
  s.putEvents (.command (tableWord nbits w) :: s.events)

end Sys2Proof.Machine
end

