-- ==== Sys2Proof/OpcodeTable.lean ====
section
/-!
DEFINITION. spec/opcode_table.json as data: `match`, `mask` and `param` of its 69 rows, as the table gives them
(30_encoding.md R64).  The decoder does not use it: statements and laws hold the two against each other.
-/

namespace Sys2Proof

/-- A row: a word `w` is the row's command when `w & mask == match`, and `param` is true (R64). -/
structure TableRow where
  pattern : CommandWord
  mask : CommandWord
  param : Admission
deriving DecidableEq, Repr

/-- `w & mask == match` (R64). -/
def TableRow.holds (r : TableRow) (w : CommandWord) : Bool := w &&& r.mask == r.pattern

/-- The rows of MEMRD, MEMWR. -/
def tableHost : List TableRow :=
  [ ⟨0x202000000000, 0xFFFF0000FFFF, .always⟩,
    ⟨0x212000000000, 0xFFFF00000000, .always⟩ ]

/-- The rows of LDA, LDX, LDY. -/
def tableLoad : List TableRow :=
  [ ⟨0x011000000000, 0xFFFF0000FFFF, .always⟩,
    ⟨0x012000000000, 0xFFFF0000FFFF, .always⟩,
    ⟨0x013000000000, 0xFFFD0000FFFF, .always⟩,
    ⟨0x014000000000, 0xFFFF0000FFFF, .always⟩,
    ⟨0x015000000000, 0xFFFF0000FFFF, .always⟩,
    ⟨0x011400000000, 0xFFFF0000FFFF, .always⟩,
    ⟨0x012400000000, 0xFFFF0000FFFF, .always⟩,
    ⟨0x013400000000, 0xFFFD0000FFFF, .always⟩,
    ⟨0x014400000000, 0xFFFF0000FFFF, .always⟩,
    ⟨0x015400000000, 0xFFFF0000FFFF, .always⟩,
    ⟨0x011800000000, 0xFFFF0000FFFF, .always⟩,
    ⟨0x012800000000, 0xFFFF0000FFFF, .always⟩,
    ⟨0x013800000000, 0xFFFD0000FFFF, .always⟩,
    ⟨0x014800000000, 0xFFFF0000FFFF, .always⟩,
    ⟨0x015800000000, 0xFFFF0000FFFF, .always⟩ ]

/-- The rows of STA, STX, STY. -/
def tableStore : List TableRow :=
  [ ⟨0x021000000000, 0xFFFF0000FFFF, .always⟩,
    ⟨0x022000000000, 0xFFFF0000FFFF, .always⟩,
    ⟨0x023000000000, 0xFFFD0000FFFF, .always⟩,
    ⟨0x024000000000, 0xFFFF0000FFFF, .always⟩,
    ⟨0x025000000000, 0xFFFF0000FFFF, .always⟩,
    ⟨0x021400000000, 0xFFFF0000FFFF, .always⟩,
    ⟨0x022400000000, 0xFFFF0000FFFF, .always⟩,
    ⟨0x023400000000, 0xFFFD0000FFFF, .always⟩,
    ⟨0x021800000000, 0xFFFF0000FFFF, .always⟩,
    ⟨0x022800000000, 0xFFFF0000FFFF, .always⟩,
    ⟨0x023800000000, 0xFFFD0000FFFF, .always⟩ ]

/-- The rows of ADC, SBC. -/
def tableArith : List TableRow :=
  [ ⟨0x031000000000, 0xFFFFFF00FFFF, .always⟩,
    ⟨0x032000000000, 0xFFFF0000FFFF, .always⟩,
    ⟨0x033000000000, 0xFFFD0000FFFF, .always⟩,
    ⟨0x034000000000, 0xFFFF0000FFFF, .always⟩,
    ⟨0x035000000000, 0xFFFF0000FFFF, .always⟩,
    ⟨0x041000000000, 0xFFFFFF00FFFF, .always⟩,
    ⟨0x042000000000, 0xFFFF0000FFFF, .always⟩,
    ⟨0x043000000000, 0xFFFD0000FFFF, .always⟩,
    ⟨0x044000000000, 0xFFFF0000FFFF, .always⟩,
    ⟨0x045000000000, 0xFFFF0000FFFF, .always⟩ ]

/-- The rows of INC, DEC, CLC, SEC. -/
def tableIncDec : List TableRow :=
  [ ⟨0x051000000000, 0xFFFF0000FFFF, .always⟩,
    ⟨0x052000000000, 0xFFFF0000FFFF, .extIncDec⟩,
    ⟨0x053000000000, 0xFFFD0000FFFF, .extIncDec⟩,
    ⟨0x054000000000, 0xFFFF0000FFFF, .extIncDec⟩,
    ⟨0x055000000000, 0xFFFF0000FFFF, .extIncDec⟩,
    ⟨0x061000000000, 0xFFFF0000FFFF, .extIncDec⟩,
    ⟨0x062000000000, 0xFFFF0000FFFF, .extIncDec⟩,
    ⟨0x063000000000, 0xFFFD0000FFFF, .extIncDec⟩,
    ⟨0x064000000000, 0xFFFF0000FFFF, .extIncDec⟩,
    ⟨0x065000000000, 0xFFFF0000FFFF, .extIncDec⟩,
    ⟨0x070000000000, 0xFFFFFFFFFFFF, .always⟩,
    ⟨0x080000000000, 0xFFFFFFFFFFFF, .always⟩ ]

/-- The rows of AND, ORA, EOR. -/
def tableLogic : List TableRow :=
  [ ⟨0x101000000000, 0xFFFFFF00FFFF, .extAlu⟩,
    ⟨0x102000000000, 0xFFFF0000FFFF, .extAlu⟩,
    ⟨0x103000000000, 0xFFFD0000FFFF, .extAlu⟩,
    ⟨0x104000000000, 0xFFFF0000FFFF, .extAlu⟩,
    ⟨0x105000000000, 0xFFFF0000FFFF, .extAlu⟩,
    ⟨0x111000000000, 0xFFFFFF00FFFF, .extAlu⟩,
    ⟨0x112000000000, 0xFFFF0000FFFF, .extAlu⟩,
    ⟨0x113000000000, 0xFFFD0000FFFF, .extAlu⟩,
    ⟨0x114000000000, 0xFFFF0000FFFF, .extAlu⟩,
    ⟨0x115000000000, 0xFFFF0000FFFF, .extAlu⟩,
    ⟨0x121000000000, 0xFFFFFF00FFFF, .extAlu⟩,
    ⟨0x122000000000, 0xFFFF0000FFFF, .extAlu⟩,
    ⟨0x123000000000, 0xFFFD0000FFFF, .extAlu⟩,
    ⟨0x124000000000, 0xFFFF0000FFFF, .extAlu⟩,
    ⟨0x125000000000, 0xFFFF0000FFFF, .extAlu⟩ ]

/-- The rows of ASL, LSR, ROL, ROR. -/
def tableShift : List TableRow :=
  [ ⟨0x136000000000, 0xFFFFFFFFFFFF, .extAlu⟩,
    ⟨0x146000000000, 0xFFFFFFFFFFFF, .extAlu⟩,
    ⟨0x156000000000, 0xFFFFFFFFFFFF, .extAlu⟩,
    ⟨0x166000000000, 0xFFFFFFFFFFFF, .extAlu⟩ ]

/-- The 69 rows (R64). -/
def opcodeTable : List TableRow :=
  tableHost ++ tableLoad ++ tableStore ++ tableArith ++ tableIncDec ++ tableLogic ++ tableShift

end Sys2Proof
end

