-- ==== Sys2Proof/Safety.lean ====
section
/-!
DEFINITION. The terms claims are stated in, written from the spec's rules and not from the meanings: what a command
answers, the state a register write, an ADC or an SBC leaves, the cells a write changes, a legal command word, which
command writes what, the invariant of the machine, and a safe run.
-/

namespace Sys2Proof.Machine

/-- The same configuration, registers, flags and memory: the whole architectural state (R10, R12, R17, R186). -/
def State.sameArch (s t : State) : Prop :=
  t.cfg = s.cfg ∧ t.a = s.a ∧ t.x = s.x ∧ t.y = s.y ∧ t.c = s.c ∧ t.v = s.v ∧ t.z = s.z ∧ t.n = s.n ∧ t.mem = s.mem

/-- The last response carries this code (R62). -/
def State.answered (s : State) (err : BitVec 3) : Prop := s.resp.map Response.err = some err

/-- In `s` the command goes to the next state `t`, answered with the code `err`.  Nothing is said of the response's
`rdata` (R62) or of the count of free values. -/
def Answers (i : Instr) (s : State) (err : BitVec 3) (t : State) : Prop :=
  ∃ d k, exec i s = .next { t with resp := some ⟨err, d⟩, freeCtr := k }

/-- NegRule of a byte (R15): bit 7, or the byte 0xFF. -/
def negFlag (cfg : Config) (b : Byte) : Bool :=
  match cfg.nflagRule with
  | .bit7 => b.msb
  | .byteFF => decide (b = 0xFF)

/-- A register written through SetReg: the register, `Z` and `N` (R14). -/
def State.written (s : State) (r : Reg) (b : Byte) : State :=
  match r with
  | .a => { s with a := b, z := decide (b = 0), n := negFlag s.cfg b }
  | .x => { s with x := b, z := decide (b = 0), n := negFlag s.cfg b }
  | .y => { s with y := b, z := decide (b = 0), n := negFlag s.cfg b }

/-- The 16-bit pointer in two cells, the low byte at the lower address (R38). -/
def State.pointerAt (s : State) (p : Nat) : Nat := (s.mem.read p).toNat + 256 * (s.mem.read (p + 1)).toNat

/-- The cells a MemWrite at `a` makes hold its value: `a`, and +0x801 or -0x801 by its range (R32, R42). -/
def WriteReaches (a b : Nat) : Prop :=
  b = a ∨ (a ≤ 0x7FF ∧ b = a + 0x801) ∨ (0x801 ≤ a ∧ a ≤ 0x2000 ∧ b + 0x801 = a)

/-- In `s` the command stores `v` at the address `a` and at its mirror partner, answered OK: every other cell, and
everything else, is as before (R32, R33). -/
def AnswersStore (i : Instr) (s : State) (a : Nat) (v : Byte) : Prop :=
  ∃ m, Answers i s 0 { s with mem := m } ∧
    ∀ b, (WriteReaches a b → m.read b = v) ∧ (¬ WriteReaches a b → m.read b = s.mem.read b)

/-- AdcCore (R110) as arithmetic on the accumulator read as a number and on sign bits. -/
def State.afterAdc (s : State) (m : Byte) : State :=
  let sum := s.a.toNat + m.toNat + s.c.toNat
  match s.cfg.arithProfile with
  | .documented =>
    let res : Byte := if sum ≤ 255 then BitVec.ofNat 8 sum else 0xFF
    { s with c := decide (255 < sum), v := s.a.msb != res.msb }.written .a res
  | .mos6502 =>
    let res : Byte := BitVec.ofNat 8 sum
    { s with c := decide (255 < sum), v := s.a.msb == m.msb && s.a.msb != res.msb }.written .a res

/-- SbcCore (R111) as arithmetic on the accumulator read as a number and on sign bits. -/
def State.afterSbc (s : State) (m : Byte) : State :=
  let diff : Int := s.a.toNat - m.toNat - (if s.c then 0 else 1)
  let res : Byte := BitVec.ofInt 8 diff
  match s.cfg.arithProfile with
  | .documented => { s with c := decide (0 ≤ diff), v := s.a.msb != res.msb }.written .a res
  | .mos6502 =>
    { s with c := decide (0 ≤ diff), v := s.a.msb != m.msb && s.a.msb != res.msb }.written .a res

/-- The table of R57: the forms (`mode` values of R52) admitted for an operation (`op` values of R51). -/
def formAdmitted (cfg : Config) (op mode : Nat) : Prop :=
  (op ∈ [0x01, 0x02, 0x03, 0x04] ∧ 1 ≤ mode ∧ mode ≤ 5)
    ∨ (op = 0x05 ∧ (mode = 1 ∨ 2 ≤ mode ∧ mode ≤ 5 ∧ cfg.extIncDec = true))
    ∨ (op = 0x06 ∧ 1 ≤ mode ∧ mode ≤ 5 ∧ cfg.extIncDec = true)
    ∨ (op ∈ [0x07, 0x08] ∧ mode = 0)
    ∨ (op ∈ [0x10, 0x11, 0x12] ∧ 1 ≤ mode ∧ mode ≤ 5 ∧ cfg.extAlu = true)
    ∨ (op ∈ [0x13, 0x14, 0x15, 0x16] ∧ mode = 6 ∧ cfg.extAlu = true)
    ∨ (op ∈ [0x20, 0x21] ∧ mode = 2)

/-- The nine conditions of R56, in its order, on the fields of R50. -/
structure LegalWord (cfg : Config) (w : CommandWord) : Prop where
  opKnown : (w.extractLsb' 40 8).toNat ∈
    [0x01, 0x02, 0x03, 0x04, 0x05, 0x06, 0x07, 0x08, 0x10, 0x11, 0x12, 0x13, 0x14, 0x15, 0x16, 0x20, 0x21]
  formOk : formAdmitted cfg (w.extractLsb' 40 8).toNat (w.extractLsb' 36 4).toNat
  rsvZero : w.extractLsb' 32 1 = 0
  regOk : w.extractLsb' 34 2 ≠ 3 ∧
    (w.extractLsb' 34 2 = 0 ∨ w.extractLsb' 40 8 = 0x01 ∨ w.extractLsb' 40 8 = 0x02)
  idxZero : w.extractLsb' 33 1 = 0 ∨ w.extractLsb' 36 4 = 3
  valZero : w.extractLsb' 0 16 = 0 ∨ w.extractLsb' 40 8 = 0x21
  argZero : w.extractLsb' 36 4 = 0 ∨ w.extractLsb' 36 4 = 6 → w.extractLsb' 16 16 = 0
  literalByte : w.extractLsb' 36 4 = 1 →
    (w.extractLsb' 40 8).toNat ∈ [0x03, 0x04, 0x10, 0x11, 0x12] → w.extractLsb' 24 8 = 0
  notRefused : ¬ (w.extractLsb' 40 8 = 0x02 ∧ (w.extractLsb' 34 2 = 1 ∨ w.extractLsb' 34 2 = 2) ∧
    (w.extractLsb' 36 4 = 4 ∨ w.extractLsb' 36 4 = 5))

/-- Cells 0x801 apart from 0x000 to 0x7FF on hold the same byte (R34 item 3). -/
def Memory.paired (m : Memory) : Prop := ∀ a, a ≤ 0x7FF → m.read a = m.read (a + 0x801)

/-- The configuration is within bounds (R30), memory is canonical and lists only cells that exist (R17, R30), and the
last response carries one of the codes 0 to 4 (R62, R180). -/
structure State.Inv (s : State) : Prop where
  cfgWellFormed : s.cfg.wellFormed = true
  memCanonical : s.mem.wf = true
  memInRange : s.mem.below s.cfg.memSize = true
  respCode : ∀ r, s.resp = some r → r.err.toNat ≤ 4

/-- The command's effective address names no cell: a cell of its pointer is out of range, or the address is (R183). -/
def State.addressFails (s : State) (f : Form) (arg : Half) : Prop := ∀ a, ea f arg s = .ok a → s.cfg.memSize ≤ a

/-- A run of `k` steps in which no command is answered with an error: the run R189 calls correct. -/
def SafeRun : Nat → State → Prop
  | 0, _ => True
  | k + 1, s => ∃ t, step s = .next t ∧ (t.resp = none ∨ t.answered 0) ∧ SafeRun k t

end Sys2Proof.Machine

namespace Sys2Proof

/-- The register a command writes, if any (the "written by" column of R11). -/
def Instr.regWritten : Instr → Option Reg
  | .ldaImm _ | .ldaAbs _ | .ldaAbsIdx _ _ | .ldaIndX _ | .ldaIndY _ | .adcImm _ | .adcAbs _ | .adcAbsIdx _ _
  | .adcIndX _ | .adcIndY _ | .sbcImm _ | .sbcAbs _ | .sbcAbsIdx _ _ | .sbcIndX _ | .sbcIndY _ | .andImm _
  | .andAbs _ | .andAbsIdx _ _ | .andIndX _ | .andIndY _ | .oraImm _ | .oraAbs _ | .oraAbsIdx _ _ | .oraIndX _
  | .oraIndY _ | .eorImm _ | .eorAbs _ | .eorAbsIdx _ _ | .eorIndX _ | .eorIndY _ | .aslAcc | .lsrAcc | .rolAcc
  | .rorAcc => some .a
  | .ldxImm _ | .ldxAbs _ | .ldxAbsIdx _ _ | .ldxIndX _ | .ldxIndY _ => some .x
  | .ldyImm _ | .ldyAbs _ | .ldyAbsIdx _ _ | .ldyIndX _ | .ldyIndY _ => some .y
  | .memrd _ | .memwr _ _ | .staImm _ | .staAbs _ | .staAbsIdx _ _ | .staIndX _ | .staIndY _ | .stxImm _
  | .stxAbs _ | .stxAbsIdx _ _ | .styImm _ | .styAbs _ | .styAbsIdx _ _ | .incImm _ | .incAbs _ | .incAbsIdx _ _
  | .incIndX _ | .incIndY _ | .decImm _ | .decAbs _ | .decAbsIdx _ _ | .decIndX _ | .decIndY _ | .clc | .sec => none

/-- The commands that write `C` (R13). -/
def Instr.writesC : Instr → Bool
  | .adcImm _ | .adcAbs _ | .adcAbsIdx _ _ | .adcIndX _ | .adcIndY _ | .sbcImm _ | .sbcAbs _ | .sbcAbsIdx _ _
  | .sbcIndX _ | .sbcIndY _ | .clc | .sec | .aslAcc | .lsrAcc | .rolAcc | .rorAcc => true
  | .memrd _ | .memwr _ _ | .ldaImm _ | .ldaAbs _ | .ldaAbsIdx _ _ | .ldaIndX _ | .ldaIndY _ | .ldxImm _
  | .ldxAbs _ | .ldxAbsIdx _ _ | .ldxIndX _ | .ldxIndY _ | .ldyImm _ | .ldyAbs _ | .ldyAbsIdx _ _ | .ldyIndX _
  | .ldyIndY _ | .staImm _ | .staAbs _ | .staAbsIdx _ _ | .staIndX _ | .staIndY _ | .stxImm _ | .stxAbs _
  | .stxAbsIdx _ _ | .styImm _ | .styAbs _ | .styAbsIdx _ _ | .incImm _ | .incAbs _ | .incAbsIdx _ _
  | .incIndX _ | .incIndY _ | .decImm _ | .decAbs _ | .decAbsIdx _ _ | .decIndX _ | .decIndY _ | .andImm _
  | .andAbs _ | .andAbsIdx _ _ | .andIndX _ | .andIndY _ | .oraImm _ | .oraAbs _ | .oraAbsIdx _ _ | .oraIndX _
  | .oraIndY _ | .eorImm _ | .eorAbs _ | .eorAbsIdx _ _ | .eorIndX _ | .eorIndY _ => false

/-- The commands that write `V` (R13). -/
def Instr.writesV : Instr → Bool
  | .adcImm _ | .adcAbs _ | .adcAbsIdx _ _ | .adcIndX _ | .adcIndY _ | .sbcImm _ | .sbcAbs _ | .sbcAbsIdx _ _
  | .sbcIndX _ | .sbcIndY _ => true
  | .memrd _ | .memwr _ _ | .ldaImm _ | .ldaAbs _ | .ldaAbsIdx _ _ | .ldaIndX _ | .ldaIndY _ | .ldxImm _
  | .ldxAbs _ | .ldxAbsIdx _ _ | .ldxIndX _ | .ldxIndY _ | .ldyImm _ | .ldyAbs _ | .ldyAbsIdx _ _ | .ldyIndX _
  | .ldyIndY _ | .staImm _ | .staAbs _ | .staAbsIdx _ _ | .staIndX _ | .staIndY _ | .stxImm _ | .stxAbs _
  | .stxAbsIdx _ _ | .styImm _ | .styAbs _ | .styAbsIdx _ _ | .incImm _ | .incAbs _ | .incAbsIdx _ _
  | .incIndX _ | .incIndY _ | .decImm _ | .decAbs _ | .decAbsIdx _ _ | .decIndX _ | .decIndY _ | .clc | .sec
  | .andImm _ | .andAbs _ | .andAbsIdx _ _ | .andIndX _ | .andIndY _ | .oraImm _ | .oraAbs _ | .oraAbsIdx _ _
  | .oraIndX _ | .oraIndY _ | .eorImm _ | .eorAbs _ | .eorAbsIdx _ _ | .eorIndX _ | .eorIndY _ | .aslAcc
  | .lsrAcc | .rolAcc | .rorAcc => false

/-- The commands that write memory: STORE, INC, DEC, MEMWR (R30, R32). -/
def Instr.writesMem : Instr → Bool
  | .memwr _ _ | .staImm _ | .staAbs _ | .staAbsIdx _ _ | .staIndX _ | .staIndY _ | .stxImm _ | .stxAbs _
  | .stxAbsIdx _ _ | .styImm _ | .styAbs _ | .styAbsIdx _ _ | .incImm _ | .incAbs _ | .incAbsIdx _ _
  | .incIndX _ | .incIndY _ | .decImm _ | .decAbs _ | .decAbsIdx _ _ | .decIndX _ | .decIndY _ => true
  | .memrd _ | .ldaImm _ | .ldaAbs _ | .ldaAbsIdx _ _ | .ldaIndX _ | .ldaIndY _ | .ldxImm _ | .ldxAbs _
  | .ldxAbsIdx _ _ | .ldxIndX _ | .ldxIndY _ | .ldyImm _ | .ldyAbs _ | .ldyAbsIdx _ _ | .ldyIndX _ | .ldyIndY _
  | .adcImm _ | .adcAbs _ | .adcAbsIdx _ _ | .adcIndX _ | .adcIndY _ | .sbcImm _ | .sbcAbs _ | .sbcAbsIdx _ _
  | .sbcIndX _ | .sbcIndY _ | .clc | .sec | .andImm _ | .andAbs _ | .andAbsIdx _ _ | .andIndX _ | .andIndY _
  | .oraImm _ | .oraAbs _ | .oraAbsIdx _ _ | .oraIndX _ | .oraIndY _ | .eorImm _ | .eorAbs _ | .eorAbsIdx _ _
  | .eorIndX _ | .eorIndY _ | .aslAcc | .lsrAcc | .rolAcc | .rorAcc => false

/-- The addressing form and the address field of a command that has an address (R48, R183): every command but the IMM
forms of LOAD, ADC, SBC, AND, ORA, EOR, the ACC forms, CLC and SEC.  MEMRD and MEMWR use the address itself (R70, R71). -/
def Instr.address : Instr → Option (Form × Half)
  | .ldaImm _ | .ldxImm _ | .ldyImm _ | .adcImm _ | .sbcImm _ | .clc | .sec | .andImm _ | .oraImm _ | .eorImm _
  | .aslAcc | .lsrAcc | .rolAcc | .rorAcc => none
  | .staImm arg | .stxImm arg | .styImm arg | .incImm arg | .decImm arg => some (.imm, arg)
  | .memrd arg | .memwr arg _ | .ldaAbs arg | .ldxAbs arg | .ldyAbs arg | .staAbs arg | .stxAbs arg | .styAbs arg
  | .adcAbs arg | .sbcAbs arg | .incAbs arg | .decAbs arg | .andAbs arg | .oraAbs arg | .eorAbs arg => some (.abs, arg)
  | .ldaAbsIdx idx arg | .ldxAbsIdx idx arg | .ldyAbsIdx idx arg | .staAbsIdx idx arg | .stxAbsIdx idx arg
  | .styAbsIdx idx arg | .adcAbsIdx idx arg | .sbcAbsIdx idx arg | .incAbsIdx idx arg | .decAbsIdx idx arg
  | .andAbsIdx idx arg | .oraAbsIdx idx arg | .eorAbsIdx idx arg => some (.absIdx idx, arg)
  | .ldaIndX arg | .ldxIndX arg | .ldyIndX arg | .staIndX arg | .adcIndX arg | .sbcIndX arg | .incIndX arg
  | .decIndX arg | .andIndX arg | .oraIndX arg | .eorIndX arg => some (.indX, arg)
  | .ldaIndY arg | .ldxIndY arg | .ldyIndY arg | .staIndY arg | .adcIndY arg | .sbcIndY arg | .incIndY arg
  | .decIndY arg | .andIndY arg | .oraIndY arg | .eorIndY arg => some (.indY, arg)

/-- INC, in any form. -/
def Instr.isInc : Instr → Bool
  | .incImm _ | .incAbs _ | .incAbsIdx _ _ | .incIndX _ | .incIndY _ => true
  | .memrd _ | .memwr _ _ | .ldaImm _ | .ldaAbs _ | .ldaAbsIdx _ _ | .ldaIndX _ | .ldaIndY _ | .ldxImm _
  | .ldxAbs _ | .ldxAbsIdx _ _ | .ldxIndX _ | .ldxIndY _ | .ldyImm _ | .ldyAbs _ | .ldyAbsIdx _ _ | .ldyIndX _
  | .ldyIndY _ | .staImm _ | .staAbs _ | .staAbsIdx _ _ | .staIndX _ | .staIndY _ | .stxImm _ | .stxAbs _
  | .stxAbsIdx _ _ | .styImm _ | .styAbs _ | .styAbsIdx _ _ | .adcImm _ | .adcAbs _ | .adcAbsIdx _ _
  | .adcIndX _ | .adcIndY _ | .sbcImm _ | .sbcAbs _ | .sbcAbsIdx _ _ | .sbcIndX _ | .sbcIndY _ | .decImm _
  | .decAbs _ | .decAbsIdx _ _ | .decIndX _ | .decIndY _ | .clc | .sec | .andImm _ | .andAbs _ | .andAbsIdx _ _
  | .andIndX _ | .andIndY _ | .oraImm _ | .oraAbs _ | .oraAbsIdx _ _ | .oraIndX _ | .oraIndY _ | .eorImm _
  | .eorAbs _ | .eorAbsIdx _ _ | .eorIndX _ | .eorIndY _ | .aslAcc | .lsrAcc | .rolAcc | .rorAcc => false

/-- DEC, in any form. -/
def Instr.isDec : Instr → Bool
  | .decImm _ | .decAbs _ | .decAbsIdx _ _ | .decIndX _ | .decIndY _ => true
  | .memrd _ | .memwr _ _ | .ldaImm _ | .ldaAbs _ | .ldaAbsIdx _ _ | .ldaIndX _ | .ldaIndY _ | .ldxImm _
  | .ldxAbs _ | .ldxAbsIdx _ _ | .ldxIndX _ | .ldxIndY _ | .ldyImm _ | .ldyAbs _ | .ldyAbsIdx _ _ | .ldyIndX _
  | .ldyIndY _ | .staImm _ | .staAbs _ | .staAbsIdx _ _ | .staIndX _ | .staIndY _ | .stxImm _ | .stxAbs _
  | .stxAbsIdx _ _ | .styImm _ | .styAbs _ | .styAbsIdx _ _ | .adcImm _ | .adcAbs _ | .adcAbsIdx _ _
  | .adcIndX _ | .adcIndY _ | .sbcImm _ | .sbcAbs _ | .sbcAbsIdx _ _ | .sbcIndX _ | .sbcIndY _ | .incImm _
  | .incAbs _ | .incAbsIdx _ _ | .incIndX _ | .incIndY _ | .clc | .sec | .andImm _ | .andAbs _ | .andAbsIdx _ _
  | .andIndX _ | .andIndY _ | .oraImm _ | .oraAbs _ | .oraAbsIdx _ _ | .oraIndX _ | .oraIndY _ | .eorImm _
  | .eorAbs _ | .eorAbsIdx _ _ | .eorIndX _ | .eorIndY _ | .aslAcc | .lsrAcc | .rolAcc | .rorAcc => false

end Sys2Proof
end

