-- ==== Sys2Proof/Certificates/Slice0/Obligations.lean ====
section
/-!
DEFINITION. The statements about Nes3-CORE, from the numbered rules of spec/.  A command word is written
`{head, arg, val}`, three halfwords, the head being the digits `oo ms` of 30_encoding.md R50.
-/

open Sys2Proof Sys2Proof.Machine

/-! ### Encoding -/

/-- The example words of R61's table decode to the commands beside them. -/
def Obligations.ExampleWordsDecode : Prop :=
  ∀ p ∈ [((0x080000000000 : CommandWord), Instr.sec), (0x0110007F0000, .ldaImm 0x007F),
      (0x032002000000, .adcAbs 0x0200), (0x013012340000, .ldaAbsIdx .x 0x1234),
      (0x013612340000, .ldxAbsIdx .y 0x1234), (0x0140000C0000, .ldaIndX 0x000C), (0x015000020000, .ldaIndY 0x0002),
      (0x156000000000, .rolAcc), (0x2020FF110000, .memrd 0xFF11),
      (0x2120120300FE, .memwr 0x1203 0x00FE), (0x021002000000, .staImm 0x0200), (0x022002000000, .staAbs 0x0200)],
    decode Config.default p.1 = some p.2

/-- Decode and encode agree, both ways and in every configuration: a word decodes to a command exactly when the command
is admitted and the word is its encoding. So no bit of a legal word is dropped, and no two words are one command. -/
def Obligations.DecodeIsInverseOfEncode : Prop :=
  ∀ (cfg : Config) (w : CommandWord) (i : Instr), decode cfg w = some i ↔ i.wellFormed cfg = true ∧ w = encode i

/-- R56, R57, R58, R184: a word is a command exactly when the nine conditions hold; a word for which one fails is
answered `IllegalCommand` (4) and changes nothing.  That the word waits in `events` and leaves it is the model's choice
(log entry 3). -/
def Obligations.LegalExactlyWhenNineConditionsHold : Prop :=
  (∀ (cfg : Config) (w : CommandWord), (∃ i, decode cfg w = some i) ↔ LegalWord cfg w) ∧
  ∀ (s : State) (w : CommandWord) (es : List HostEvent),
    s.cfg.wellFormed = true → s.events = .command w :: es → ¬ LegalWord s.cfg w →
      ∃ d k, step s = .next { s with events := es, resp := some ⟨4, d⟩, freeCtr := k }

/-- 30_encoding.md R64: a word is a command exactly when it matches a row of the opcode table whose parameter is true;
the table has 69 rows and no two of them share a word. -/
def Obligations.OpcodeTableDecidesLegality : Prop :=
  (∀ (cfg : Config) (w : CommandWord),
    (∃ i, decode cfg w = some i) ↔ ∃ r ∈ opcodeTable, cfg.admits r.param = true ∧ r.holds w = true) ∧
  opcodeTable.length = 69 ∧
  ∀ (j k : Nat) (hj : j < opcodeTable.length) (hk : k < opcodeTable.length) (w : CommandWord),
    opcodeTable[j].holds w = true → opcodeTable[k].holds w = true → j = k

/-! ### The step and the host's actions -/

/-- A step takes the oldest host action; when it is a word that decodes to a command, the step is that command's `exec`
on the state without that action.  The list of waiting actions is the model's choice (log entry 3). -/
def Obligations.StepRunsDecodedCommand : Prop :=
  ∀ (s : State) (w : CommandWord) (es : List HostEvent) (i : Instr),
    s.cfg.wellFormed = true → s.events = .command w :: es → decode s.cfg w = some i →
      step s = exec i { s with events := es }

/-- A word that does not decode is answered `IllegalCommand` (4) and changes nothing; that it waits in `events` and
leaves it is the model's choice (log entry 3). -/
def Obligations.StepAnswersIllegalCommand : Prop :=
  ∀ (s : State) (w : CommandWord) (es : List HostEvent),
    s.cfg.wellFormed = true → s.events = .command w :: es → decode s.cfg w = none →
      ∃ d k, step s = .next { s with events := es, resp := some ⟨4, d⟩, freeCtr := k }

/-- R200: ResetCore zeroes the registers and flags and leaves memory; ResetAll also zeroes every cell.  That ResetAll
carries the configuration the block then has is R201 and the model's choice of log entry 7; that the host actions
waiting behind the reset stay is the model's choice (log entries 3, 7).  What becomes of the response port and of the
count of free values is the model's choice too (log entries 5, 6, 7), and nothing is said of it. -/
def Obligations.HostResetsZeroTheState : Prop :=
  ∀ (s : State) (es : List HostEvent), s.cfg.wellFormed = true →
    (s.events = .resetCore :: es → ∃ r k, step s = .next { s with
      a := 0, x := 0, y := 0, c := false, v := false, z := false, n := false, events := es, resp := r, freeCtr := k }) ∧
    (∀ cfg : Config, cfg.wellFormed = true → s.events = .resetAll cfg :: es →
      ∃ m r k, (∀ b, Memory.read m b = 0) ∧ m.wf = true ∧ step s = .next { s with
        cfg := cfg, a := 0, x := 0, y := 0, c := false, v := false, z := false, n := false, mem := m, events := es,
        resp := r, freeCtr := k })

/-- R23: after reset every register, flag and cell is zero, `Z` included. -/
def Obligations.ResetStateIsZero : Prop :=
  State.reset.a = 0 ∧ State.reset.x = 0 ∧ State.reset.y = 0 ∧ State.reset.c = false ∧ State.reset.v = false ∧
    State.reset.z = false ∧ State.reset.n = false ∧ ∀ b, State.reset.mem.read b = 0

/-- MODEL'S CHOICE (log entry 4): with no host action waiting a step changes nothing. -/
def Obligations.IdleStepChangesNothing : Prop :=
  ∀ s : State, s.cfg.wellFormed = true → s.events = [] → step s = .next s

/-- A step answers a next state exactly when no configuration outside R30's bounds is in play: neither the one it runs
in nor one a ResetAll is about to construct. So no command stops the block (93_implementation_defined.md: "every command
has a response").  That a step refuses such a configuration, and that a ResetAll carries one, are log entries 8 and 7. -/
def Obligations.StepStopsOnlyOnConfigurationsOutOfBounds : Prop :=
  ∀ s : State, (∃ t, step s = .next t) ↔
    (s.cfg.wellFormed = true ∧ ∀ cfg es, s.events = .resetAll cfg :: es → cfg.wellFormed = true)

/-! ### Invariants and whole-machine rules -/

/-- Every step from a state that meets the invariant gives one that does: the configuration stays in bounds, memory
stays canonical and lists no cell at or above `MEM_SIZE`, and the response code is 0 to 4. -/
def Obligations.StepKeepsInvariant : Prop :=
  ∀ s t : State, s.Inv → step s = .next t → t.Inv

/-- The reset state meets the invariant. -/
def Obligations.ResetMeetsInvariant : Prop := State.reset.Inv

/-- A safe run of any length, from any state that meets the invariant, runs on the host's machine to the end and leaves
a state that meets the invariant. -/
def Obligations.SafeRunsReachInvariantStates : Prop :=
  ∀ (k : Nat) (s : State), s.Inv → SafeRun k s → ∃ t : State, core.run k s = .next t ∧ t.Inv

/-- R201: no command and no ResetCore changes a parameter; only a ResetAll does (a change means a new ResetAll).  That
the new configuration is the one the waiting ResetAll carries, and that the action waits in `events`, are the model's
choices (DESIGN CHOICE, log entries 7 and 3). -/
def Obligations.OnlyResetAllChangesConfiguration : Prop :=
  ∀ s t : State, step s = .next t → t.cfg = s.cfg ∨ ∃ es, s.events = .resetAll t.cfg :: es

/-- R186: whatever command the host issues, if its response carries an error then no register, flag, cell or parameter
has changed, and the block is ready for the next command.  That the word is gone from `events`, and that the next one
waits there, is the model's choice (log entry 3). -/
def Obligations.ErrorsLeaveTheStateUnchanged : Prop :=
  ∀ (s t : State) (w : CommandWord) (es : List HostEvent) (r : Response),
    s.events = .command w :: es → step s = .next t → t.resp = some r → r.err ≠ 0 →
      s.sameArch t ∧ t.events = es ∧
        ∀ w' es', es = .command w' :: es' → ∃ u, step t = .next u

/-- The failing command, issued again, fails again in the same way (R188). -/
def Obligations.FailingCommandFailsAgain : Prop :=
  ∀ (i : Instr) (s t : State) (r : Response),
    exec i s = .next t → t.resp = some r → r.err ≠ 0 → Answers i t r.err t

/-- R181: SetReg raises RegisterOverflow exactly above 255; the commands that raise it are LDA, LDX and LDY in the IMM
form with a literal above 0x00FF, and then nothing changes. -/
def Obligations.RegisterOverflowExactlyFromWideLiterals : Prop :=
  (∀ (r : Reg) (v : Nat) (s : State), setReg r v s = .error .registerOverflow ↔ 255 < v) ∧
  ∀ (i : Instr) (s t : State), exec i s = .next t →
    (t.answered 1 ↔ ∃ arg : Half, 0xFF < arg.toNat ∧ (i = .ldaImm arg ∨ i = .ldxImm arg ∨ i = .ldyImm arg)) ∧
    (t.answered 1 → s.sameArch t)

/-- Which commands raise the other errors, and when (60_exceptions.md section 1, R182, R183).  MemoryOverflow: exactly
MEMWR of a value above 0xFF and, under `FAULT`, INC where the valid cell at its effective address holds 0xFF and DEC
where that cell holds 0x00.  OutOfRange: exactly a command that has an address and whose effective address names no
cell, and that does not raise MemoryOverflow first (R185).  No decoded command raises IllegalCommand. -/
def Obligations.SourcesOfTheOtherErrors : Prop :=
  ∀ (i : Instr) (s t : State), exec i s = .next t →
    (t.answered 2 ↔
      (∃ arg val : Half, i = .memwr arg val ∧ 0xFF < val.toNat) ∨
      (s.cfg.incDecEdge = .fault ∧ ∃ f arg a, i.address = some (f, arg) ∧ ea f arg s = .ok a ∧ a < s.cfg.memSize ∧
        (i.isInc = true ∧ s.mem.read a = 0xFF ∨ i.isDec = true ∧ s.mem.read a = 0x00))) ∧
    (t.answered 3 ↔ ¬ t.answered 2 ∧ ∃ f arg, i.address = some (f, arg) ∧ s.addressFails f arg) ∧
    ¬ t.answered 4

/-- The write tables of 10_state.md (R11, R13) and 43_inc_dec_flagops.md (R129): each command leaves alone every
register, flag, cell and parameter that the tables do not say it writes. -/
def Obligations.CommandsWriteOnlyWhatTheTablesSay : Prop :=
  ∀ (i : Instr) (s t : State), exec i s = .next t →
    t.cfg = s.cfg ∧ t.events = s.events ∧
    (∀ r, i.regWritten ≠ some r → t.reg r = s.reg r) ∧
    (i.writesC = false → t.c = s.c) ∧ (i.writesV = false → t.v = s.v) ∧
    (i.regWritten = none → t.z = s.z ∧ t.n = s.n) ∧
    (i.writesMem = false → t.mem = s.mem)

/-- R16: after a command that writes a register and completes, `Z` and `N` describe that register; after one that fails,
or that writes none, they are as they were. -/
def Obligations.ZAndNDescribeTheLastRegisterWrite : Prop :=
  ∀ (i : Instr) (s t : State), exec i s = .next t →
    (∀ r, i.regWritten = some r → t.answered 0 → t.z = decide (t.reg r = 0) ∧ t.n = negFlag s.cfg (t.reg r)) ∧
    (i.regWritten = none ∨ ¬ t.answered 0 → t.z = s.z ∧ t.n = s.n)

/-- The read side of R13: no command reads `V`, `Z` or `N`: whatever they hold, the registers, `C`, memory and the
response come out the same, and so do the `V` of a completed command that writes it and the `Z` and `N` of a completed
register write. -/
def Obligations.OverflowZeroNegativeAreNeverRead : Prop :=
  ∀ (i : Instr) (s : State) (v z n : Bool), ∃ t t' : State,
    exec i s = .next t ∧ exec i { s with v := v, z := z, n := n } = .next t' ∧
      t'.a = t.a ∧ t'.x = t.x ∧ t'.y = t.y ∧ t'.c = t.c ∧ t'.mem = t.mem ∧ t'.resp = t.resp ∧ t'.cfg = t.cfg ∧
      t'.events = t.events ∧ (i.writesV = true → t.answered 0 → t'.v = t.v) ∧
      (i.regWritten ≠ none → t.answered 0 → t'.z = t.z ∧ t'.n = t.n)

/-- R188: an error is recorded nowhere in the block: the response to an earlier command has no influence on a later
one. -/
def Obligations.EarlierResponsesAreNeverRead : Prop :=
  ∀ (i : Instr) (s : State) (r : Option Response), exec i { s with resp := r } = exec i s

/-- R34: the two cells of a mirrored write hold the value written; the pair property is kept by every write outside
0x1002 to 0x1801, and a write inside changes the upper cell of a pair and not the lower; above 0x1000 the relation is not
symmetric.  The property holds at reset. -/
def Obligations.MirroredPairProperty : Prop :=
  State.reset.mem.paired ∧
  ∀ (s t : State) (a : Nat) (v : Byte), memWrite s a v.toNat = .ok t →
    (a ≤ 0x7FF → t.mem.read a = v ∧ t.mem.read (a + 0x801) = v) ∧
    (0x801 ≤ a → a ≤ 0x2000 → t.mem.read a = v ∧ t.mem.read (a - 0x801) = v) ∧
    (¬ (0x1002 ≤ a ∧ a ≤ 0x1801) → s.mem.paired → t.mem.paired) ∧
    (0x1002 ≤ a → a ≤ 0x1801 →
      t.mem.read (a - 0x801) = v ∧ t.mem.read (a - 0x1002) = s.mem.read (a - 0x1002) ∧
        0x801 ≤ a - 0x801 ∧ a - 0x801 = a - 0x1002 + 0x801 ∧ a - 0x1002 ≤ 0x7FF) ∧
    (0x1001 ≤ a → a ≤ 0x2000 → ∀ (u : State) (v' : Byte), memWrite t (a - 0x801) v'.toNat = .ok u →
      u.mem.read a = v)

/-- Read after write (R43): after an OK MEMWR an MEMRD of the cell or of its mirror partner returns the value written,
and an MEMRD of any other valid cell returns what it returned before. -/
def Obligations.MemrdSeesTheLatestMemwr : Prop :=
  ∀ (s t : State) (a v b : Half), exec (.memwr a v) s = .next t → t.answered 0 → b.toNat < s.cfg.memSize →
    ∃ k, exec (.memrd b) t = .next { t with freeCtr := k, resp := some ⟨0, t.mem.read b.toNat⟩ } ∧
      (WriteReaches a.toNat b.toNat → (t.mem.read b.toNat).toNat = v.toNat) ∧
      (¬ WriteReaches a.toNat b.toNat → t.mem.read b.toNat = s.mem.read b.toNat)

/-! ### Host access -/

/-- R70: MEMRD returns the cell and changes nothing; at or above `MEM_SIZE` it answers OutOfRange (3). -/
def Obligations.MemrdReturnsTheCell : Prop :=
  ∀ (s : State) (arg : Half),
    decode s.cfg (0x2020#16 ++ arg ++ 0#16) = some (.memrd arg) ∧
    (arg.toNat < s.cfg.memSize →
      ∃ k, exec (.memrd arg) s = .next { s with resp := some ⟨0, s.mem.read arg.toNat⟩, freeCtr := k }) ∧
    (s.cfg.memSize ≤ arg.toNat → Answers (.memrd arg) s 3 s)

/-- R71: MEMWR writes the cell and its mirror partner; a value above 0xFF is MemoryOverflow (2), else an address at or
above `MEM_SIZE` is OutOfRange (3), and then nothing changes. -/
def Obligations.MemwrWritesTheCellAndItsMirror : Prop :=
  ∀ (s : State) (arg val : Half),
    decode s.cfg (0x2120#16 ++ arg ++ val) = some (.memwr arg val) ∧
    (val.toNat ≤ 0xFF → arg.toNat < s.cfg.memSize → AnswersStore (.memwr arg val) s arg.toNat (val.setWidth 8)) ∧
    (0xFF < val.toNat → Answers (.memwr arg val) s 2 s) ∧
    (val.toNat ≤ 0xFF → s.cfg.memSize ≤ arg.toNat → Answers (.memwr arg val) s 3 s)

/-! ### LOAD and STORE -/

/-- R82, R87, R92: LOAD of a literal. -/
def Obligations.LoadImmediateSetsTheRegister : Prop :=
  ∀ (s : State) (arg head : Half) (r : Reg) (i : Instr),
    (head, r, i) ∈ [(0x0110#16, Reg.a, Instr.ldaImm arg), (0x0114, .x, .ldxImm arg), (0x0118, .y, .ldyImm arg)] →
    decode s.cfg (head ++ arg ++ 0#16) = some i ∧
    (arg.toNat ≤ 0xFF → Answers i s 0 (s.written r (arg.setWidth 8))) ∧
    (0xFF < arg.toNat → Answers i s 1 s)

/-- R83, R88, R93: LOAD of the byte at `arg`. -/
def Obligations.LoadAbsoluteReadsTheCell : Prop :=
  ∀ (s : State) (arg head : Half) (r : Reg) (i : Instr),
    (head, r, i) ∈ [(0x0120#16, Reg.a, Instr.ldaAbs arg), (0x0124, .x, .ldxAbs arg), (0x0128, .y, .ldyAbs arg)] →
    decode s.cfg (head ++ arg ++ 0#16) = some i ∧
    (arg.toNat < s.cfg.memSize → Answers i s 0 (s.written r (s.mem.read arg.toNat))) ∧
    (s.cfg.memSize ≤ arg.toNat → Answers i s 3 s)

/-- R84, R89, R94: LOAD of the byte at `arg` plus the index register, old value, unwrapped. -/
def Obligations.LoadAbsoluteIndexedReadsTheCell : Prop :=
  ∀ (s : State) (arg head : Half) (off : Byte) (r : Reg) (i : Instr),
    (head, off, r, i) ∈ [(0x0130#16, s.x, Reg.a, Instr.ldaAbsIdx .x arg), (0x0132, s.y, .a, .ldaAbsIdx .y arg),
      (0x0134, s.x, .x, .ldxAbsIdx .x arg), (0x0136, s.y, .x, .ldxAbsIdx .y arg),
      (0x0138, s.x, .y, .ldyAbsIdx .x arg), (0x013A, s.y, .y, .ldyAbsIdx .y arg)] →
    decode s.cfg (head ++ arg ++ 0#16) = some i ∧
    (arg.toNat + off.toNat < s.cfg.memSize → Answers i s 0 (s.written r (s.mem.read (arg.toNat + off.toNat)))) ∧
    (s.cfg.memSize ≤ arg.toNat + off.toNat → Answers i s 3 s)

/-- R85, R90, R95: LOAD of the byte the pointer at `arg` + X names. -/
def Obligations.LoadIndexedIndirectReadsTheCell : Prop :=
  ∀ (s : State) (arg head : Half) (r : Reg) (i : Instr),
    (head, r, i) ∈ [(0x0140#16, Reg.a, Instr.ldaIndX arg), (0x0144, .x, .ldxIndX arg), (0x0148, .y, .ldyIndX arg)] →
    decode s.cfg (head ++ arg ++ 0#16) = some i ∧
    (arg.toNat + s.x.toNat + 1 < s.cfg.memSize → s.pointerAt (arg.toNat + s.x.toNat) < s.cfg.memSize →
      Answers i s 0 (s.written r (s.mem.read (s.pointerAt (arg.toNat + s.x.toNat))))) ∧
    (s.cfg.memSize ≤ arg.toNat + s.x.toNat + 1 ∨ s.cfg.memSize ≤ s.pointerAt (arg.toNat + s.x.toNat) →
      Answers i s 3 s)

/-- R86, R91, R96: LOAD of the byte at the pointer at `arg`, plus Y, unwrapped. -/
def Obligations.LoadIndirectIndexedReadsTheCell : Prop :=
  ∀ (s : State) (arg head : Half) (r : Reg) (i : Instr),
    (head, r, i) ∈ [(0x0150#16, Reg.a, Instr.ldaIndY arg), (0x0154, .x, .ldxIndY arg), (0x0158, .y, .ldyIndY arg)] →
    decode s.cfg (head ++ arg ++ 0#16) = some i ∧
    (arg.toNat + 1 < s.cfg.memSize → s.pointerAt arg.toNat + s.y.toNat < s.cfg.memSize →
      Answers i s 0 (s.written r (s.mem.read (s.pointerAt arg.toNat + s.y.toNat)))) ∧
    (s.cfg.memSize ≤ arg.toNat + 1 ∨ s.cfg.memSize ≤ s.pointerAt arg.toNat + s.y.toNat → Answers i s 3 s)

/-- R97, R98, R102, R103, R105, R106: STORE at `arg`, in the IMM form and in the ABS form alike. -/
def Obligations.StoreAtTheAddress : Prop :=
  ∀ (s : State) (arg head : Half) (v : Byte) (i : Instr),
    (head, v, i) ∈ [(0x0210#16, s.a, Instr.staImm arg), (0x0220, s.a, .staAbs arg), (0x0214, s.x, .stxImm arg),
      (0x0224, s.x, .stxAbs arg), (0x0218, s.y, .styImm arg), (0x0228, s.y, .styAbs arg)] →
    decode s.cfg (head ++ arg ++ 0#16) = some i ∧
    (arg.toNat < s.cfg.memSize → AnswersStore i s arg.toNat v) ∧
    (s.cfg.memSize ≤ arg.toNat → Answers i s 3 s)

/-- R99, R104, R107: STORE at `arg` plus the index register, unwrapped. -/
def Obligations.StoreAbsoluteIndexed : Prop :=
  ∀ (s : State) (arg head : Half) (off v : Byte) (i : Instr),
    (head, off, v, i) ∈ [(0x0230#16, s.x, s.a, Instr.staAbsIdx .x arg), (0x0232, s.y, s.a, .staAbsIdx .y arg),
      (0x0234, s.x, s.x, .stxAbsIdx .x arg), (0x0236, s.y, s.x, .stxAbsIdx .y arg),
      (0x0238, s.x, s.y, .styAbsIdx .x arg), (0x023A, s.y, s.y, .styAbsIdx .y arg)] →
    decode s.cfg (head ++ arg ++ 0#16) = some i ∧
    (arg.toNat + off.toNat < s.cfg.memSize → AnswersStore i s (arg.toNat + off.toNat) v) ∧
    (s.cfg.memSize ≤ arg.toNat + off.toNat → Answers i s 3 s)

/-- R100: STA where the pointer at `arg` + X points. -/
def Obligations.StoreIndexedIndirect : Prop :=
  ∀ (s : State) (arg : Half),
    decode s.cfg (0x0240#16 ++ arg ++ 0#16) = some (.staIndX arg) ∧
    (arg.toNat + s.x.toNat + 1 < s.cfg.memSize → s.pointerAt (arg.toNat + s.x.toNat) < s.cfg.memSize →
      AnswersStore (.staIndX arg) s (s.pointerAt (arg.toNat + s.x.toNat)) s.a) ∧
    (s.cfg.memSize ≤ arg.toNat + s.x.toNat + 1 ∨ s.cfg.memSize ≤ s.pointerAt (arg.toNat + s.x.toNat) →
      Answers (.staIndX arg) s 3 s)

/-- R101: STA where the pointer at `arg`, plus Y, points. -/
def Obligations.StoreIndirectIndexed : Prop :=
  ∀ (s : State) (arg : Half),
    decode s.cfg (0x0250#16 ++ arg ++ 0#16) = some (.staIndY arg) ∧
    (arg.toNat + 1 < s.cfg.memSize → s.pointerAt arg.toNat + s.y.toNat < s.cfg.memSize →
      AnswersStore (.staIndY arg) s (s.pointerAt arg.toNat + s.y.toNat) s.a) ∧
    (s.cfg.memSize ≤ arg.toNat + 1 ∨ s.cfg.memSize ≤ s.pointerAt arg.toNat + s.y.toNat →
      Answers (.staIndY arg) s 3 s)

/-! ### ADC and SBC -/

/-- R113, R118: ADC and SBC of a literal byte; a literal above 0xFF is no command. -/
def Obligations.AddSubtractImmediate : Prop :=
  ∀ (s : State) (m : Byte),
    (decode s.cfg (0x0310#16 ++ m.setWidth 16 ++ 0#16) = some (.adcImm m) ∧
      Answers (.adcImm m) s 0 (s.afterAdc m)) ∧
    (decode s.cfg (0x0410#16 ++ m.setWidth 16 ++ 0#16) = some (.sbcImm m) ∧
      Answers (.sbcImm m) s 0 (s.afterSbc m)) ∧
    ∀ arg : Half, 0xFF < arg.toNat →
      decode s.cfg (0x0310#16 ++ arg ++ 0#16) = none ∧ decode s.cfg (0x0410#16 ++ arg ++ 0#16) = none

/-- R114, R119: ADC and SBC of the byte at `arg`. -/
def Obligations.AddSubtractAbsolute : Prop :=
  ∀ (s : State) (arg head : Half) (after : Byte → State) (i : Instr),
    (head, after, i) ∈ [(0x0320#16, s.afterAdc, Instr.adcAbs arg), (0x0420, s.afterSbc, .sbcAbs arg)] →
    decode s.cfg (head ++ arg ++ 0#16) = some i ∧
    (arg.toNat < s.cfg.memSize → Answers i s 0 (after (s.mem.read arg.toNat))) ∧
    (s.cfg.memSize ≤ arg.toNat → Answers i s 3 s)

/-- R115, R120: ADC and SBC of the byte at `arg` plus the index register, unwrapped. -/
def Obligations.AddSubtractAbsoluteIndexed : Prop :=
  ∀ (s : State) (arg head : Half) (off : Byte) (after : Byte → State) (i : Instr),
    (head, off, after, i) ∈ [(0x0330#16, s.x, s.afterAdc, Instr.adcAbsIdx .x arg),
      (0x0332, s.y, s.afterAdc, .adcAbsIdx .y arg), (0x0430, s.x, s.afterSbc, .sbcAbsIdx .x arg),
      (0x0432, s.y, s.afterSbc, .sbcAbsIdx .y arg)] →
    decode s.cfg (head ++ arg ++ 0#16) = some i ∧
    (arg.toNat + off.toNat < s.cfg.memSize → Answers i s 0 (after (s.mem.read (arg.toNat + off.toNat)))) ∧
    (s.cfg.memSize ≤ arg.toNat + off.toNat → Answers i s 3 s)

/-- R116, R121: ADC and SBC of the byte the pointer at `arg` + X names. -/
def Obligations.AddSubtractIndexedIndirect : Prop :=
  ∀ (s : State) (arg head : Half) (after : Byte → State) (i : Instr),
    (head, after, i) ∈ [(0x0340#16, s.afterAdc, Instr.adcIndX arg), (0x0440, s.afterSbc, .sbcIndX arg)] →
    decode s.cfg (head ++ arg ++ 0#16) = some i ∧
    (arg.toNat + s.x.toNat + 1 < s.cfg.memSize → s.pointerAt (arg.toNat + s.x.toNat) < s.cfg.memSize →
      Answers i s 0 (after (s.mem.read (s.pointerAt (arg.toNat + s.x.toNat))))) ∧
    (s.cfg.memSize ≤ arg.toNat + s.x.toNat + 1 ∨ s.cfg.memSize ≤ s.pointerAt (arg.toNat + s.x.toNat) →
      Answers i s 3 s)

/-- R117, R122: ADC and SBC of the byte at the pointer at `arg`, plus Y, unwrapped. -/
def Obligations.AddSubtractIndirectIndexed : Prop :=
  ∀ (s : State) (arg head : Half) (after : Byte → State) (i : Instr),
    (head, after, i) ∈ [(0x0350#16, s.afterAdc, Instr.adcIndY arg), (0x0450, s.afterSbc, .sbcIndY arg)] →
    decode s.cfg (head ++ arg ++ 0#16) = some i ∧
    (arg.toNat + 1 < s.cfg.memSize → s.pointerAt arg.toNat + s.y.toNat < s.cfg.memSize →
      Answers i s 0 (after (s.mem.read (s.pointerAt arg.toNat + s.y.toNat)))) ∧
    (s.cfg.memSize ≤ arg.toNat + 1 ∨ s.cfg.memSize ≤ s.pointerAt arg.toNat + s.y.toNat → Answers i s 3 s)

/-- The corner cases of R110 under `DOCUMENTED`: a carrying ADC commits 0xFF with `Z` = 0 and `N` = 1; `Z` = 1 only when
`A`, m and `C` were all 0; `V` = 1 exactly when the old `A` is below 0x80 and the sum is 0x80 or more. -/
def Obligations.DocumentedAdcCornerCases : Prop :=
  ∀ (s t : State) (m : Byte), s.cfg.arithProfile = .documented → exec (.adcImm m) s = .next t →
    (t.c = true → t.a = 0xFF ∧ t.z = false ∧ t.n = true ∧ (t.v = true ↔ s.a.toNat < 0x80)) ∧
    (t.z = true ↔ s.a = 0 ∧ m = 0 ∧ s.c = false) ∧
    (t.v = true ↔ s.a.toNat < 0x80 ∧ 0x80 ≤ s.a.toNat + m.toNat + s.c.toNat)

/-- Corner cases of R111 in both profiles: 0x00 - 0xFF with borrow commits 0x00 with `C` = 0 and `Z` = 1, and no other
operands give the raw difference -256; subtracting the literal equal to `A` with `C` = 1 gives 0x00, `C` = 1, `Z` = 1.
The overflow flag of that last case is 0 under `MOS6502`, and under `DOCUMENTED` it is bit 7 of `A`, as the rule's
pseudocode and the vectors of 95_test_vectors.md 2.5 have it (log entry 16). -/
def Obligations.SbcCornerCases : Prop :=
  (∀ (s t : State), s.a = 0x00 → s.c = false → exec (.sbcImm 0xFF) s = .next t →
    t.a = 0x00 ∧ t.c = false ∧ t.z = true) ∧
  (∀ (a m : Byte) (c : Bool), sbcRaw a m c = -256 ↔ a = 0x00 ∧ m = 0xFF ∧ c = false) ∧
  (∀ (s t : State), s.c = true → exec (.sbcImm s.a) s = .next t →
    t.a = 0x00 ∧ t.c = true ∧ t.z = true ∧
      (s.cfg.arithProfile = .mos6502 → t.v = false) ∧ (s.cfg.arithProfile = .documented → t.v = s.a.msb))

/-! ### INC, DEC, CLC, SEC -/

/-- R132, R133, R137, R138: INC and DEC of the cell at `arg`, in the IMM form and in the ABS form alike. `stop` is the
cell value at which `FAULT` answers MemoryOverflow (2), `delta` what is added modulo 256; `ok` is the parameter that
admits the row. -/
def Obligations.IncDecAtTheAddress : Prop :=
  ∀ (s : State) (arg head : Half) (ok : Bool) (stop delta : Byte) (i : Instr),
    (head, ok, stop, delta, i) ∈ [(0x0510#16, true, 0xFF#8, 1#8, Instr.incImm arg),
      (0x0520, s.cfg.extIncDec, 0xFF, 1, .incAbs arg), (0x0610, s.cfg.extIncDec, 0x00, -1, .decImm arg),
      (0x0620, s.cfg.extIncDec, 0x00, -1, .decAbs arg)] →
    (decode s.cfg (head ++ arg ++ 0#16) = if ok then some i else none) ∧
    (ok = true → arg.toNat < s.cfg.memSize →
      (s.mem.read arg.toNat ≠ stop ∨ s.cfg.incDecEdge = .wrap →
        AnswersStore i s arg.toNat (s.mem.read arg.toNat + delta)) ∧
      (s.mem.read arg.toNat = stop → s.cfg.incDecEdge = .fault → Answers i s 2 s)) ∧
    (ok = true → s.cfg.memSize ≤ arg.toNat → Answers i s 3 s)

/-- R134, R139: INC and DEC of the cell at `arg` plus the index register, unwrapped. -/
def Obligations.IncDecAbsoluteIndexed : Prop :=
  ∀ (s : State) (arg head : Half) (off stop delta : Byte) (i : Instr),
    (head, off, stop, delta, i) ∈ [(0x0530#16, s.x, 0xFF#8, 1#8, Instr.incAbsIdx .x arg),
      (0x0532, s.y, 0xFF, 1, .incAbsIdx .y arg), (0x0630, s.x, 0x00, -1, .decAbsIdx .x arg),
      (0x0632, s.y, 0x00, -1, .decAbsIdx .y arg)] →
    (decode s.cfg (head ++ arg ++ 0#16) = if s.cfg.extIncDec then some i else none) ∧
    (s.cfg.extIncDec = true → arg.toNat + off.toNat < s.cfg.memSize →
      (s.mem.read (arg.toNat + off.toNat) ≠ stop ∨ s.cfg.incDecEdge = .wrap →
        AnswersStore i s (arg.toNat + off.toNat) (s.mem.read (arg.toNat + off.toNat) + delta)) ∧
      (s.mem.read (arg.toNat + off.toNat) = stop → s.cfg.incDecEdge = .fault → Answers i s 2 s)) ∧
    (s.cfg.extIncDec = true → s.cfg.memSize ≤ arg.toNat + off.toNat → Answers i s 3 s)

/-- R135, R140: INC and DEC of the cell the pointer at `arg` + X names. -/
def Obligations.IncDecIndexedIndirect : Prop :=
  ∀ (s : State) (arg head : Half) (stop delta : Byte) (i : Instr) (p q : Nat),
    (head, stop, delta, i) ∈ [(0x0540#16, 0xFF#8, 1#8, Instr.incIndX arg), (0x0640, 0x00, -1, .decIndX arg)] →
    p = arg.toNat + s.x.toNat → q = s.pointerAt p →
    (decode s.cfg (head ++ arg ++ 0#16) = if s.cfg.extIncDec then some i else none) ∧
    (s.cfg.extIncDec = true → p + 1 < s.cfg.memSize → q < s.cfg.memSize →
      (s.mem.read q ≠ stop ∨ s.cfg.incDecEdge = .wrap → AnswersStore i s q (s.mem.read q + delta)) ∧
      (s.mem.read q = stop → s.cfg.incDecEdge = .fault → Answers i s 2 s)) ∧
    (s.cfg.extIncDec = true → s.cfg.memSize ≤ p + 1 ∨ s.cfg.memSize ≤ q → Answers i s 3 s)

/-- R136, R141: INC and DEC of the cell at the pointer at `arg`, plus Y, unwrapped. -/
def Obligations.IncDecIndirectIndexed : Prop :=
  ∀ (s : State) (arg head : Half) (stop delta : Byte) (i : Instr) (q : Nat),
    (head, stop, delta, i) ∈ [(0x0550#16, 0xFF#8, 1#8, Instr.incIndY arg), (0x0650, 0x00, -1, .decIndY arg)] →
    q = s.pointerAt arg.toNat + s.y.toNat →
    (decode s.cfg (head ++ arg ++ 0#16) = if s.cfg.extIncDec then some i else none) ∧
    (s.cfg.extIncDec = true → arg.toNat + 1 < s.cfg.memSize → q < s.cfg.memSize →
      (s.mem.read q ≠ stop ∨ s.cfg.incDecEdge = .wrap → AnswersStore i s q (s.mem.read q + delta)) ∧
      (s.mem.read q = stop → s.cfg.incDecEdge = .fault → Answers i s 2 s)) ∧
    (s.cfg.extIncDec = true → s.cfg.memSize ≤ arg.toNat + 1 ∨ s.cfg.memSize ≤ q → Answers i s 3 s)

/-- R142, R143: CLC and SEC set `C` to 0 and to 1, whatever it held, and touch nothing else. -/
def Obligations.ClcAndSecSetOnlyTheCarry : Prop :=
  ∀ s : State,
    (decode s.cfg 0x070000000000 = some .clc ∧ Answers .clc s 0 { s with c := false }) ∧
    (decode s.cfg 0x080000000000 = some .sec ∧ Answers .sec s 0 { s with c := true })

/-! ### The extension ALU -/

/-- R151, R156, R161: AND, ORA, EOR of a literal byte; a literal above 0xFF is no command. -/
def Obligations.LogicImmediate : Prop :=
  ∀ (s : State) (m : Byte) (head : Half) (f : Byte → Byte → Byte) (i : Instr),
    (head, f, i) ∈ [(0x1010#16, (· &&& ·), Instr.andImm m), (0x1110, (· ||| ·), .oraImm m),
      (0x1210, (· ^^^ ·), .eorImm m)] →
    (decode s.cfg (head ++ m.setWidth 16 ++ 0#16) = if s.cfg.extAlu then some i else none) ∧
    (s.cfg.extAlu = true → Answers i s 0 (s.written .a (f s.a m))) ∧
    ∀ arg : Half, 0xFF < arg.toNat → decode s.cfg (head ++ arg ++ 0#16) = none

/-- R152, R157, R162: AND, ORA, EOR of the byte at `arg`. -/
def Obligations.LogicAbsolute : Prop :=
  ∀ (s : State) (arg head : Half) (f : Byte → Byte → Byte) (i : Instr),
    (head, f, i) ∈ [(0x1020#16, (· &&& ·), Instr.andAbs arg), (0x1120, (· ||| ·), .oraAbs arg),
      (0x1220, (· ^^^ ·), .eorAbs arg)] →
    (decode s.cfg (head ++ arg ++ 0#16) = if s.cfg.extAlu then some i else none) ∧
    (s.cfg.extAlu = true → arg.toNat < s.cfg.memSize →
      Answers i s 0 (s.written .a (f s.a (s.mem.read arg.toNat)))) ∧
    (s.cfg.extAlu = true → s.cfg.memSize ≤ arg.toNat → Answers i s 3 s)

/-- R153, R158, R163: AND, ORA, EOR of the byte at `arg` plus the index register, unwrapped. -/
def Obligations.LogicAbsoluteIndexed : Prop :=
  ∀ (s : State) (arg head : Half) (off : Byte) (f : Byte → Byte → Byte) (i : Instr),
    (head, off, f, i) ∈ [(0x1030#16, s.x, (· &&& ·), Instr.andAbsIdx .x arg),
      (0x1032, s.y, (· &&& ·), .andAbsIdx .y arg), (0x1130, s.x, (· ||| ·), .oraAbsIdx .x arg),
      (0x1132, s.y, (· ||| ·), .oraAbsIdx .y arg), (0x1230, s.x, (· ^^^ ·), .eorAbsIdx .x arg),
      (0x1232, s.y, (· ^^^ ·), .eorAbsIdx .y arg)] →
    (decode s.cfg (head ++ arg ++ 0#16) = if s.cfg.extAlu then some i else none) ∧
    (s.cfg.extAlu = true → arg.toNat + off.toNat < s.cfg.memSize →
      Answers i s 0 (s.written .a (f s.a (s.mem.read (arg.toNat + off.toNat))))) ∧
    (s.cfg.extAlu = true → s.cfg.memSize ≤ arg.toNat + off.toNat → Answers i s 3 s)

/-- R154, R159, R164: AND, ORA, EOR of the byte the pointer at `arg` + X names. -/
def Obligations.LogicIndexedIndirect : Prop :=
  ∀ (s : State) (arg head : Half) (f : Byte → Byte → Byte) (i : Instr) (p q : Nat),
    (head, f, i) ∈ [(0x1040#16, (· &&& ·), Instr.andIndX arg), (0x1140, (· ||| ·), .oraIndX arg),
      (0x1240, (· ^^^ ·), .eorIndX arg)] →
    p = arg.toNat + s.x.toNat → q = s.pointerAt p →
    (decode s.cfg (head ++ arg ++ 0#16) = if s.cfg.extAlu then some i else none) ∧
    (s.cfg.extAlu = true → p + 1 < s.cfg.memSize → q < s.cfg.memSize →
      Answers i s 0 (s.written .a (f s.a (s.mem.read q)))) ∧
    (s.cfg.extAlu = true → s.cfg.memSize ≤ p + 1 ∨ s.cfg.memSize ≤ q → Answers i s 3 s)

/-- R155, R160, R165: AND, ORA, EOR of the byte at the pointer at `arg`, plus Y, unwrapped. -/
def Obligations.LogicIndirectIndexed : Prop :=
  ∀ (s : State) (arg head : Half) (f : Byte → Byte → Byte) (i : Instr) (q : Nat),
    (head, f, i) ∈ [(0x1050#16, (· &&& ·), Instr.andIndY arg), (0x1150, (· ||| ·), .oraIndY arg),
      (0x1250, (· ^^^ ·), .eorIndY arg)] →
    q = s.pointerAt arg.toNat + s.y.toNat →
    (decode s.cfg (head ++ arg ++ 0#16) = if s.cfg.extAlu then some i else none) ∧
    (s.cfg.extAlu = true → arg.toNat + 1 < s.cfg.memSize → q < s.cfg.memSize →
      Answers i s 0 (s.written .a (f s.a (s.mem.read q)))) ∧
    (s.cfg.extAlu = true → s.cfg.memSize ≤ arg.toNat + 1 ∨ s.cfg.memSize ≤ q → Answers i s 3 s)

/-- R166 to R169: ASL, LSR, ROL, ROR of the accumulator: the result, and the bit shifted out to `C`; ROL and ROR take
the old `C` in. -/
def Obligations.ShiftsAndRotates : Prop :=
  ∀ (s : State) (w : CommandWord) (res : Byte) (out : Bool) (i : Instr),
    (w, res, out, i) ∈ [((0x136000000000 : CommandWord), s.a <<< 1, s.a.msb, Instr.aslAcc),
      (0x146000000000, s.a >>> 1, s.a[0], .lsrAcc),
      (0x156000000000, s.a <<< 1 ||| BitVec.setWidth 8 (BitVec.ofBool s.c), s.a.msb, .rolAcc),
      (0x166000000000, s.a >>> 1 ||| BitVec.ofBool s.c ++ 0#7, s.a[0], .rorAcc)] →
    (decode s.cfg w = if s.cfg.extAlu then some i else none) ∧
    (s.cfg.extAlu = true → Answers i s 0 ({ s with c := out }.written .a res))

/-- The corner cases of R168 and R169: nine ROLs, or nine RORs, restore `A` and `C`. -/
def Obligations.NineRotatesRestoreAccumulatorAndCarry : Prop :=
  ∀ (i : Instr) (s : Nat → State), i = .rolAcc ∨ i = .rorAcc → (∀ k, k < 9 → exec i (s k) = .next (s (k + 1))) →
    (s 9).a = (s 0).a ∧ (s 9).c = (s 0).c

/-! ### After an error -/

/-- The last clause of R189 (and R186): the block itself keeps accepting commands after an error.  Whatever words the
host issues, legal or not, and whatever is answered on the way, each is taken and answered, and no configuration
changes.  That the words wait in `events`, before whatever else waits there, is the model's choice (log entry 3). -/
def Obligations.BlockKeepsAcceptingCommandsAfterErrors : Prop :=
  ∀ (ws : List CommandWord) (es : List HostEvent) (s : State),
    s.cfg.wellFormed = true → s.events = ws.map HostEvent.command ++ es →
      ∃ t : State, core.run ws.length s = .next t ∧ t.events = es ∧ t.cfg = s.cfg ∧
        (ws ≠ [] → t.resp.isSome = true)
end

