-- ==== Sys2Proof/Laws/Decode.lean ====
section
/-!
SUPPORT. The laws of the command word: reading back the fields a word is packed from, packing the fields a word is read
as, and the fields of a word written as three halfwords.
-/

namespace Sys2Proof

/-- Every bit of a packed word is the bit of the field that holds it (R50). -/
theorem pack_getLsbD (f : Fields) (i : Nat) :
    (pack f).getLsbD i =
      if i < 16 then f.val.getLsbD i else if i < 32 then f.arg.getLsbD (i - 16)
      else if i < 33 then f.rsv.getLsbD (i - 32) else if i < 34 then f.idx.getLsbD (i - 33)
      else if i < 36 then f.reg.getLsbD (i - 34) else if i < 40 then f.mode.getLsbD (i - 36)
      else f.op.getLsbD (i - 40) := by
  have h : (pack f).getLsbD i = BitVec.getLsbD (w := 8 + 4 + 2 + 1 + 1 + 16 + 16)
      (f.op ++ f.mode ++ f.reg ++ f.idx ++ f.rsv ++ f.arg ++ f.val) i := rfl
  rw [h]
  simp only [BitVec.getLsbD_append]
  repeat' split
  all_goals first | rfl | omega

/-- No bit of a field is lost by packing. -/
theorem fieldsOf_pack (f : Fields) : fieldsOf (pack f) = f := by
  obtain ⟨op, mode, reg, idx, rsv, arg, val⟩ := f
  simp only [fieldsOf, Fields.mk.injEq]
  refine ⟨?_, ?_, ?_, ?_, ?_, ?_, ?_⟩ <;>
    (apply BitVec.eq_of_getLsbD_eq
     intro i hi
     simp only [BitVec.getLsbD_extractLsb', pack_getLsbD, hi, decide_true, Bool.true_and]
     repeat' split
     all_goals first | omega | (congr 1; omega))

/-- The fields hold every bit of the word. -/
theorem pack_fieldsOf (w : CommandWord) : pack (fieldsOf w) = w := by
  apply BitVec.eq_of_getLsbD_eq
  intro i hi
  simp only [pack_getLsbD, fieldsOf, BitVec.getLsbD_extractLsb']
  repeat' split
  all_goals
    rw [show decide _ = true from decide_eq_true (by omega), Bool.true_and]
    congr 1; omega

@[simp] theorem idxOfBit_bit (i : Idx) : idxOfBit i.bit = i := by
  cases i <;> rfl

@[simp] theorem bit_idxOfBit (b : BitVec 1) : (idxOfBit b).bit = b := by
  revert b; decide

/-- The literal of an ALU immediate survives the 16-bit field. -/
@[simp] theorem setWidth_byte_half (m : Byte) : (m.setWidth 16).setWidth 8 = m := by
  apply BitVec.eq_of_toNat_eq
  have := m.isLt
  simp only [BitVec.toNat_setWidth]
  omega

@[simp] theorem extract_high_of_byte (m : Byte) : (m.setWidth 16 : Half).extractLsb' 8 8 = 0 := by
  apply BitVec.eq_of_getLsbD_eq
  intro i hi
  simp only [BitVec.getLsbD_extractLsb', BitVec.getLsbD_setWidth, BitVec.getLsbD_zero, BitVec.ofNat_eq_ofNat]
  rw [BitVec.getLsbD_of_ge m (8 + i) (by omega)]
  simp

/-- A byte in the 16-bit field has nothing under the high byte's mask. -/
@[simp] theorem setWidth_byte_and_high (m : Byte) : (m.setWidth 16 : Half) &&& 0xFF00#16 = 0#16 := by
  apply BitVec.eq_of_getLsbD_eq
  intro i hi
  by_cases h8 : i < 8
  · have : (0xFF00#16).getLsbD i = false := by
      interval_cases i <;> rfl
    simp only [BitVec.getLsbD_and, this, Bool.and_false, BitVec.getLsbD_zero]
  · simp only [BitVec.getLsbD_and, BitVec.getLsbD_setWidth, BitVec.getLsbD_zero]
    rw [BitVec.getLsbD_of_ge m i (by omega)]
    simp

/-- Masking a packed word masks each field. -/
theorem pack_and (f g : Fields) : pack f &&& pack g = pack ⟨f.op &&& g.op, f.mode &&& g.mode, f.reg &&& g.reg,
    f.idx &&& g.idx, f.rsv &&& g.rsv, f.arg &&& g.arg, f.val &&& g.val⟩ := by
  apply BitVec.eq_of_getLsbD_eq
  intro i hi
  simp only [BitVec.getLsbD_and, pack_getLsbD]
  repeat' split
  all_goals rfl

/-- A packed word under a mask is a pattern when each of its fields is. -/
theorem pack_and_eq {f : Fields} {mask pattern : CommandWord}
    (h : (⟨f.op &&& (fieldsOf mask).op, f.mode &&& (fieldsOf mask).mode, f.reg &&& (fieldsOf mask).reg,
      f.idx &&& (fieldsOf mask).idx, f.rsv &&& (fieldsOf mask).rsv, f.arg &&& (fieldsOf mask).arg,
      f.val &&& (fieldsOf mask).val⟩ : Fields) = fieldsOf pattern) : pack f &&& mask = pattern := by
  rw [← pack_fieldsOf mask, pack_and, h, pack_fieldsOf]

/-- A 16-bit field whose high byte is zero is its low byte. -/
theorem setWidth_of_extract_high {arg : Half} (h : arg.extractLsb' 8 8 = 0) :
    (arg.setWidth 8).setWidth 16 = arg := by
  apply BitVec.eq_of_getLsbD_eq
  intro i hi
  simp only [BitVec.getLsbD_setWidth, hi, decide_true, Bool.true_and]
  by_cases h8 : i < 8
  · simp [h8]
  · have := congrArg (fun b => b.getLsbD (i - 8)) h
    simp only [BitVec.getLsbD_extractLsb', show 8 + (i - 8) = i by omega] at this
    simp only [h8, decide_false, Bool.false_and]
    simpa [show i - 8 < 8 by omega] using this.symm

/-- Decoding in a configuration is decoding with every extension on, less the rows it does not admit (R57). -/
theorem decode_eq_some {cfg : Config} {w : CommandWord} {i : Instr} :
    decode cfg w = some i ↔ decodeFields (fieldsOf w) = some i ∧ i.wellFormed cfg = true := by
  unfold decode
  cases h : decodeFields (fieldsOf w) with
  | none => simp
  | some j =>
    simp only [Option.some.injEq]
    constructor
    · intro h'
      split_ifs at h' with hw
      cases h'
      exact ⟨rfl, hw⟩
    · rintro ⟨rfl, hw⟩
      simp [hw]

/-- The decoder reads back the fields a word was packed from. -/
theorem decode_pack {cfg : Config} {f : Fields} {i : Instr} (h : decodeFields f = some i) (hw : i.wellFormed cfg = true) :
    decode cfg (pack f) = some i :=
  decode_eq_some.2 ⟨by rw [fieldsOf_pack, h], hw⟩

/-- The IMM form of an operation with a one-byte literal (R55): the literal comes back whole. -/
theorem decodeFields_byteLiteral {op : BitVec 8} {imm : Byte → Instr} {m : Byte}
    (hop : decodeOp ⟨op, 1, 0, 0, 0, m.setWidth 16, 0⟩ = some (imm ((m.setWidth 16).setWidth 8))) :
    decodeFields ⟨op, 1, 0, 0, 0, m.setWidth 16, 0⟩ = some (imm m) := by
  have hz : mustBeZero ⟨op, 1, 0, 0, 0, m.setWidth 16, 0⟩ = true := by simp [mustBeZero]
  rw [decodeFields, if_pos hz, hop]
  exact congrArg (fun b => some (imm b)) (setWidth_byte_half m)

end Sys2Proof
end

