-- ==== Sys2Proof/Laws/Memory.lean ====
section
/-!
SUPPORT. The laws of the memory array: a read after a write, the canonical form and the range every write keeps, and
that two canonical memories that read alike are equal.
-/

namespace Sys2Proof.Machine

@[simp] theorem memory_read_nil (a : Nat) : Memory.read [] a = unlistedByte := rfl

theorem memory_read_erase (m : Memory) (a b : Nat) :
    (Memory.erase m a).read b = if b = a then unlistedByte else m.read b := by
  induction m with
  | nil => simp [Memory.erase]
  | cons c m ih =>
    obtain ⟨k, w⟩ := c
    simp only [Memory.erase, Memory.read]
    split_ifs <;> simp_all [Memory.read]

theorem memory_read_insert (m : Memory) (a b : Nat) (v : Byte) :
    (Memory.insert m a v).read b = if b = a then v else m.read b := by
  induction m with
  | nil => simp [Memory.insert, Memory.read]
  | cons c m ih =>
    obtain ⟨k, w⟩ := c
    simp only [Memory.insert]
    split_ifs <;> simp_all [Memory.read]

/-- A read after a write: the byte written at its address, the old byte everywhere else. -/
theorem memory_read_write (m : Memory) (a b : Nat) (v : Byte) :
    (Memory.write m a v).read b = if b = a then v else m.read b := by
  unfold Memory.write
  split_ifs with hv hb hb <;> simp [memory_read_erase, memory_read_insert, *]

/-- A mirrored write changes its own cell and, if it has one, the partner's; nothing else. -/
theorem memory_read_writeMirrored (m : Memory) (a b : Nat) (v : Byte) :
    (Memory.writeMirrored m a v).read b = if b = a ∨ mirrorOf a = some b then v else m.read b := by
  unfold Memory.writeMirrored
  cases h : mirrorOf a with
  | none => simp [memory_read_write]
  | some p =>
    simp only [memory_read_write, Option.some.injEq]
    by_cases hp : b = p
    · simp [hp]
    · have : ¬ p = b := fun e => hp e.symm
      simp [hp, this]

theorem memory_wfFrom_mono {lo hi : Nat} (h : lo ≤ hi) {m : Memory} (hm : Memory.wfFrom hi m = true) :
    Memory.wfFrom lo m = true := by
  cases m with
  | nil => rfl
  | cons c m =>
    obtain ⟨k, w⟩ := c
    simp only [Memory.wfFrom, Bool.and_eq_true, decide_eq_true_eq] at hm ⊢
    exact ⟨⟨le_trans h hm.1.1, hm.1.2⟩, hm.2⟩

theorem memory_wfFrom_erase {lo : Nat} {m : Memory} (hm : Memory.wfFrom lo m = true) (a : Nat) :
    Memory.wfFrom lo (Memory.erase m a) = true := by
  induction m generalizing lo with
  | nil => rfl
  | cons c m ih =>
    obtain ⟨k, w⟩ := c
    simp only [Memory.wfFrom, Bool.and_eq_true, decide_eq_true_eq] at hm
    simp only [Memory.erase]
    split_ifs
    · exact memory_wfFrom_mono (by omega) (ih hm.2)
    · simp only [Memory.wfFrom, Bool.and_eq_true, decide_eq_true_eq]
      exact ⟨hm.1, ih hm.2⟩

theorem memory_wfFrom_insert {lo : Nat} {m : Memory} (hm : Memory.wfFrom lo m = true) {a : Nat} (ha : lo ≤ a)
    {v : Byte} (hv : v ≠ unlistedByte) : Memory.wfFrom lo (Memory.insert m a v) = true := by
  induction m generalizing lo with
  | nil => simp [Memory.insert, Memory.wfFrom, ha, hv]
  | cons c m ih =>
    obtain ⟨k, w⟩ := c
    simp only [Memory.wfFrom, Bool.and_eq_true, decide_eq_true_eq] at hm
    simp only [Memory.insert]
    split_ifs with h1 h2
    · simp only [Memory.wfFrom, Bool.and_eq_true, decide_eq_true_eq, bne_iff_ne]
      exact ⟨⟨ha, hv⟩, ⟨h1, by simpa using hm.1.2⟩, hm.2⟩
    · subst h2
      simp only [Memory.wfFrom, Bool.and_eq_true, decide_eq_true_eq, bne_iff_ne]
      exact ⟨⟨ha, hv⟩, hm.2⟩
    · simp only [Memory.wfFrom, Bool.and_eq_true, decide_eq_true_eq]
      exact ⟨hm.1, ih hm.2 (by omega)⟩

/-- A write keeps the canonical form. -/
theorem memory_wf_write {m : Memory} (hm : m.wf = true) (a : Nat) (v : Byte) : (Memory.write m a v).wf = true := by
  unfold Memory.write Memory.wf
  split_ifs with hv
  · exact memory_wfFrom_erase hm a
  · exact memory_wfFrom_insert hm (Nat.zero_le a) hv

/-- A mirrored write keeps the canonical form. -/
theorem memory_wf_writeMirrored {m : Memory} (hm : m.wf = true) (a : Nat) (v : Byte) :
    (Memory.writeMirrored m a v).wf = true := by
  unfold Memory.writeMirrored
  cases mirrorOf a with
  | none => exact memory_wf_write hm a v
  | some p => exact memory_wf_write (memory_wf_write hm a v) p v

theorem memory_below_write {n : Nat} {m : Memory} (hm : m.below n = true) {a : Nat} (ha : a < n) (v : Byte) :
    (Memory.write m a v).below n = true := by
  unfold Memory.write
  split_ifs
  · induction m with
    | nil => rfl
    | cons c m ih =>
      obtain ⟨k, w⟩ := c
      simp only [Memory.below, Bool.and_eq_true, decide_eq_true_eq] at hm
      simp only [Memory.erase]
      split_ifs
      · exact ih hm.2
      · simp [Memory.below, hm.1, ih hm.2]
  · induction m with
    | nil => simp [Memory.insert, Memory.below, ha]
    | cons c m ih =>
      obtain ⟨k, w⟩ := c
      simp only [Memory.below, Bool.and_eq_true, decide_eq_true_eq] at hm
      simp only [Memory.insert]
      split_ifs
      · simp [Memory.below, hm.1, hm.2, ha]
      · simp [Memory.below, hm.2, ha]
      · simp [Memory.below, hm.1, ih hm.2]

/-- The mirror partner of a valid address is valid (R33): it is below 0x1001 or below the address itself. -/
theorem mirrorOf_lt {a p n : Nat} (h : mirrorOf a = some p) (hn : 0x1001 ≤ n) (ha : a < n) : p < n := by
  unfold mirrorOf at h
  split_ifs at h <;> simp only [Option.some.injEq] at h <;> omega

/-- A mirrored write at a valid address lists only cells that exist. -/
theorem memory_below_writeMirrored {n : Nat} {m : Memory} (hm : m.below n = true) (hn : 0x1001 ≤ n) {a : Nat}
    (ha : a < n) (v : Byte) : (Memory.writeMirrored m a v).below n = true := by
  unfold Memory.writeMirrored
  cases h : mirrorOf a with
  | none => exact memory_below_write hm ha v
  | some p => exact memory_below_write (memory_below_write hm ha v) (mirrorOf_lt h hn ha) v

theorem memory_read_of_lt {lo : Nat} {m : Memory} (hm : Memory.wfFrom lo m = true) {a : Nat} (ha : a < lo) :
    m.read a = unlistedByte := by
  induction m generalizing lo with
  | nil => rfl
  | cons c m ih =>
    obtain ⟨k, w⟩ := c
    simp only [Memory.wfFrom, Bool.and_eq_true, decide_eq_true_eq] at hm
    simp only [Memory.read]
    rw [if_neg (by omega)]
    exact ih hm.2 (by omega)

theorem memory_ext_from {lo : Nat} {m m' : Memory} (hm : Memory.wfFrom lo m = true) (hm' : Memory.wfFrom lo m' = true)
    (h : ∀ a, m.read a = m'.read a) : m = m' := by
  induction m generalizing lo m' with
  | nil =>
    cases m' with
    | nil => rfl
    | cons c m' =>
      obtain ⟨k, w⟩ := c
      simp only [Memory.wfFrom, Bool.and_eq_true, bne_iff_ne] at hm'
      exact absurd (by simpa [Memory.read] using h k) (Ne.symm hm'.1.2)
  | cons c m ih =>
    obtain ⟨k, w⟩ := c
    cases m' with
    | nil =>
      simp only [Memory.wfFrom, Bool.and_eq_true, bne_iff_ne] at hm
      exact absurd (by simpa [Memory.read] using h k) hm.1.2
    | cons c' m' =>
      obtain ⟨k', w'⟩ := c'
      simp only [Memory.wfFrom, Bool.and_eq_true, bne_iff_ne, decide_eq_true_eq] at hm hm'
      have hk : k = k' := by
        rcases lt_trichotomy k k' with hlt | heq | hgt
        · have := h k
          simp only [Memory.read, if_true, if_neg (show ¬ k = k' by omega)] at this
          exact absurd (this.trans (memory_read_of_lt hm'.2 (by omega))) hm.1.2
        · exact heq
        · have := h k'
          simp only [Memory.read, if_true, if_neg (show ¬ k' = k by omega)] at this
          exact absurd (this.symm.trans (memory_read_of_lt hm.2 (by omega))) hm'.1.2
      subst hk
      have hw : w = w' := by simpa [Memory.read] using h k
      subst hw
      have : m = m' := by
        refine ih hm.2 hm'.2 fun a => ?_
        by_cases ha : a = k
        · rw [ha, memory_read_of_lt hm.2 (by omega), memory_read_of_lt hm'.2 (by omega)]
        · simpa [Memory.read, ha] using h a
      rw [this]

/-- Equal memories are equal data: canonical memories that read alike at every address are the same list. -/
theorem memory_ext {m m' : Memory} (hm : m.wf = true) (hm' : m'.wf = true) (h : ∀ a, m.read a = m'.read a) : m = m' :=
  memory_ext_from hm hm' h

end Sys2Proof.Machine
end

