-- ==== Sys2Proof/Laws/State.lean ====
section
/-!
SUPPORT. One lemma per field per update of State, so that no later proof unfolds a record update.
-/

namespace Sys2Proof.Machine

variable (s : State)

@[simp] theorem putReg_a_cfg (b : Byte) : (s.putReg .a b).cfg = s.cfg := rfl
@[simp] theorem putReg_a_a (b : Byte) : (s.putReg .a b).a = b := rfl
@[simp] theorem putReg_a_x (b : Byte) : (s.putReg .a b).x = s.x := rfl
@[simp] theorem putReg_a_y (b : Byte) : (s.putReg .a b).y = s.y := rfl
@[simp] theorem putReg_a_c (b : Byte) : (s.putReg .a b).c = s.c := rfl
@[simp] theorem putReg_a_v (b : Byte) : (s.putReg .a b).v = s.v := rfl
@[simp] theorem putReg_a_z (b : Byte) : (s.putReg .a b).z = s.z := rfl
@[simp] theorem putReg_a_n (b : Byte) : (s.putReg .a b).n = s.n := rfl
@[simp] theorem putReg_a_mem (b : Byte) : (s.putReg .a b).mem = s.mem := rfl
@[simp] theorem putReg_a_events (b : Byte) : (s.putReg .a b).events = s.events := rfl
@[simp] theorem putReg_a_resp (b : Byte) : (s.putReg .a b).resp = s.resp := rfl
@[simp] theorem putReg_a_freeCtr (b : Byte) : (s.putReg .a b).freeCtr = s.freeCtr := rfl

@[simp] theorem putReg_x_cfg (b : Byte) : (s.putReg .x b).cfg = s.cfg := rfl
@[simp] theorem putReg_x_a (b : Byte) : (s.putReg .x b).a = s.a := rfl
@[simp] theorem putReg_x_x (b : Byte) : (s.putReg .x b).x = b := rfl
@[simp] theorem putReg_x_y (b : Byte) : (s.putReg .x b).y = s.y := rfl
@[simp] theorem putReg_x_c (b : Byte) : (s.putReg .x b).c = s.c := rfl
@[simp] theorem putReg_x_v (b : Byte) : (s.putReg .x b).v = s.v := rfl
@[simp] theorem putReg_x_z (b : Byte) : (s.putReg .x b).z = s.z := rfl
@[simp] theorem putReg_x_n (b : Byte) : (s.putReg .x b).n = s.n := rfl
@[simp] theorem putReg_x_mem (b : Byte) : (s.putReg .x b).mem = s.mem := rfl
@[simp] theorem putReg_x_events (b : Byte) : (s.putReg .x b).events = s.events := rfl
@[simp] theorem putReg_x_resp (b : Byte) : (s.putReg .x b).resp = s.resp := rfl
@[simp] theorem putReg_x_freeCtr (b : Byte) : (s.putReg .x b).freeCtr = s.freeCtr := rfl

@[simp] theorem putReg_y_cfg (b : Byte) : (s.putReg .y b).cfg = s.cfg := rfl
@[simp] theorem putReg_y_a (b : Byte) : (s.putReg .y b).a = s.a := rfl
@[simp] theorem putReg_y_x (b : Byte) : (s.putReg .y b).x = s.x := rfl
@[simp] theorem putReg_y_y (b : Byte) : (s.putReg .y b).y = b := rfl
@[simp] theorem putReg_y_c (b : Byte) : (s.putReg .y b).c = s.c := rfl
@[simp] theorem putReg_y_v (b : Byte) : (s.putReg .y b).v = s.v := rfl
@[simp] theorem putReg_y_z (b : Byte) : (s.putReg .y b).z = s.z := rfl
@[simp] theorem putReg_y_n (b : Byte) : (s.putReg .y b).n = s.n := rfl
@[simp] theorem putReg_y_mem (b : Byte) : (s.putReg .y b).mem = s.mem := rfl
@[simp] theorem putReg_y_events (b : Byte) : (s.putReg .y b).events = s.events := rfl
@[simp] theorem putReg_y_resp (b : Byte) : (s.putReg .y b).resp = s.resp := rfl
@[simp] theorem putReg_y_freeCtr (b : Byte) : (s.putReg .y b).freeCtr = s.freeCtr := rfl

@[simp] theorem reg_a : s.reg .a = s.a := rfl
@[simp] theorem reg_x : s.reg .x = s.x := rfl
@[simp] theorem reg_y : s.reg .y = s.y := rfl
@[simp] theorem index_x : s.index .x = s.x := rfl
@[simp] theorem index_y : s.index .y = s.y := rfl

/-- A register write reaches no field but a register. -/
theorem putReg_frame (r : Reg) (b : Byte) :
    (s.putReg r b).cfg = s.cfg ∧ (s.putReg r b).c = s.c ∧ (s.putReg r b).v = s.v ∧ (s.putReg r b).z = s.z
      ∧ (s.putReg r b).n = s.n ∧ (s.putReg r b).mem = s.mem ∧ (s.putReg r b).events = s.events
      ∧ (s.putReg r b).resp = s.resp ∧ (s.putReg r b).freeCtr = s.freeCtr := by
  cases r <;> simp

theorem reg_putReg_same (r : Reg) (b : Byte) : (s.putReg r b).reg r = b := by
  cases r <;> rfl

theorem reg_putReg_other {r q : Reg} (h : q ≠ r) (b : Byte) : (s.putReg r b).reg q = s.reg q := by
  cases r <;> cases q <;> first | rfl | exact absurd rfl h

@[simp] theorem putZN_cfg (p q : Bool) : (s.putZN p q).cfg = s.cfg := rfl
@[simp] theorem putZN_a (p q : Bool) : (s.putZN p q).a = s.a := rfl
@[simp] theorem putZN_x (p q : Bool) : (s.putZN p q).x = s.x := rfl
@[simp] theorem putZN_y (p q : Bool) : (s.putZN p q).y = s.y := rfl
@[simp] theorem putZN_c (p q : Bool) : (s.putZN p q).c = s.c := rfl
@[simp] theorem putZN_v (p q : Bool) : (s.putZN p q).v = s.v := rfl
@[simp] theorem putZN_z (p q : Bool) : (s.putZN p q).z = p := rfl
@[simp] theorem putZN_n (p q : Bool) : (s.putZN p q).n = q := rfl
@[simp] theorem putZN_mem (p q : Bool) : (s.putZN p q).mem = s.mem := rfl
@[simp] theorem putZN_events (p q : Bool) : (s.putZN p q).events = s.events := rfl
@[simp] theorem putZN_resp (p q : Bool) : (s.putZN p q).resp = s.resp := rfl
@[simp] theorem putZN_freeCtr (p q : Bool) : (s.putZN p q).freeCtr = s.freeCtr := rfl

@[simp] theorem putC_cfg (p : Bool) : (s.putC p).cfg = s.cfg := rfl
@[simp] theorem putC_a (p : Bool) : (s.putC p).a = s.a := rfl
@[simp] theorem putC_x (p : Bool) : (s.putC p).x = s.x := rfl
@[simp] theorem putC_y (p : Bool) : (s.putC p).y = s.y := rfl
@[simp] theorem putC_c (p : Bool) : (s.putC p).c = p := rfl
@[simp] theorem putC_v (p : Bool) : (s.putC p).v = s.v := rfl
@[simp] theorem putC_z (p : Bool) : (s.putC p).z = s.z := rfl
@[simp] theorem putC_n (p : Bool) : (s.putC p).n = s.n := rfl
@[simp] theorem putC_mem (p : Bool) : (s.putC p).mem = s.mem := rfl
@[simp] theorem putC_events (p : Bool) : (s.putC p).events = s.events := rfl
@[simp] theorem putC_resp (p : Bool) : (s.putC p).resp = s.resp := rfl
@[simp] theorem putC_freeCtr (p : Bool) : (s.putC p).freeCtr = s.freeCtr := rfl

@[simp] theorem putV_cfg (p : Bool) : (s.putV p).cfg = s.cfg := rfl
@[simp] theorem putV_a (p : Bool) : (s.putV p).a = s.a := rfl
@[simp] theorem putV_x (p : Bool) : (s.putV p).x = s.x := rfl
@[simp] theorem putV_y (p : Bool) : (s.putV p).y = s.y := rfl
@[simp] theorem putV_c (p : Bool) : (s.putV p).c = s.c := rfl
@[simp] theorem putV_v (p : Bool) : (s.putV p).v = p := rfl
@[simp] theorem putV_z (p : Bool) : (s.putV p).z = s.z := rfl
@[simp] theorem putV_n (p : Bool) : (s.putV p).n = s.n := rfl
@[simp] theorem putV_mem (p : Bool) : (s.putV p).mem = s.mem := rfl
@[simp] theorem putV_events (p : Bool) : (s.putV p).events = s.events := rfl
@[simp] theorem putV_resp (p : Bool) : (s.putV p).resp = s.resp := rfl
@[simp] theorem putV_freeCtr (p : Bool) : (s.putV p).freeCtr = s.freeCtr := rfl

@[simp] theorem putMem_cfg (m : Memory) : (s.putMem m).cfg = s.cfg := rfl
@[simp] theorem putMem_a (m : Memory) : (s.putMem m).a = s.a := rfl
@[simp] theorem putMem_x (m : Memory) : (s.putMem m).x = s.x := rfl
@[simp] theorem putMem_y (m : Memory) : (s.putMem m).y = s.y := rfl
@[simp] theorem putMem_c (m : Memory) : (s.putMem m).c = s.c := rfl
@[simp] theorem putMem_v (m : Memory) : (s.putMem m).v = s.v := rfl
@[simp] theorem putMem_z (m : Memory) : (s.putMem m).z = s.z := rfl
@[simp] theorem putMem_n (m : Memory) : (s.putMem m).n = s.n := rfl
@[simp] theorem putMem_mem (m : Memory) : (s.putMem m).mem = m := rfl
@[simp] theorem putMem_events (m : Memory) : (s.putMem m).events = s.events := rfl
@[simp] theorem putMem_resp (m : Memory) : (s.putMem m).resp = s.resp := rfl
@[simp] theorem putMem_freeCtr (m : Memory) : (s.putMem m).freeCtr = s.freeCtr := rfl

@[simp] theorem putEvents_cfg (es : List HostEvent) : (s.putEvents es).cfg = s.cfg := rfl
@[simp] theorem putEvents_a (es : List HostEvent) : (s.putEvents es).a = s.a := rfl
@[simp] theorem putEvents_x (es : List HostEvent) : (s.putEvents es).x = s.x := rfl
@[simp] theorem putEvents_y (es : List HostEvent) : (s.putEvents es).y = s.y := rfl
@[simp] theorem putEvents_c (es : List HostEvent) : (s.putEvents es).c = s.c := rfl
@[simp] theorem putEvents_v (es : List HostEvent) : (s.putEvents es).v = s.v := rfl
@[simp] theorem putEvents_z (es : List HostEvent) : (s.putEvents es).z = s.z := rfl
@[simp] theorem putEvents_n (es : List HostEvent) : (s.putEvents es).n = s.n := rfl
@[simp] theorem putEvents_mem (es : List HostEvent) : (s.putEvents es).mem = s.mem := rfl
@[simp] theorem putEvents_events (es : List HostEvent) : (s.putEvents es).events = es := rfl
@[simp] theorem putEvents_resp (es : List HostEvent) : (s.putEvents es).resp = s.resp := rfl
@[simp] theorem putEvents_freeCtr (es : List HostEvent) : (s.putEvents es).freeCtr = s.freeCtr := rfl

@[simp] theorem answer_cfg (e : BitVec 3) : (s.answer e).cfg = s.cfg := rfl
@[simp] theorem answer_a (e : BitVec 3) : (s.answer e).a = s.a := rfl
@[simp] theorem answer_x (e : BitVec 3) : (s.answer e).x = s.x := rfl
@[simp] theorem answer_y (e : BitVec 3) : (s.answer e).y = s.y := rfl
@[simp] theorem answer_c (e : BitVec 3) : (s.answer e).c = s.c := rfl
@[simp] theorem answer_v (e : BitVec 3) : (s.answer e).v = s.v := rfl
@[simp] theorem answer_z (e : BitVec 3) : (s.answer e).z = s.z := rfl
@[simp] theorem answer_n (e : BitVec 3) : (s.answer e).n = s.n := rfl
@[simp] theorem answer_mem (e : BitVec 3) : (s.answer e).mem = s.mem := rfl
@[simp] theorem answer_events (e : BitVec 3) : (s.answer e).events = s.events := rfl
@[simp] theorem answer_resp (e : BitVec 3) : (s.answer e).resp = some ⟨e, Config.freeRdata s.freeCtr⟩ := rfl
@[simp] theorem answer_freeCtr (e : BitVec 3) : (s.answer e).freeCtr = s.freeCtr + 1 := rfl

@[simp] theorem answerData_cfg (b : Byte) : (s.answerData b).cfg = s.cfg := rfl
@[simp] theorem answerData_a (b : Byte) : (s.answerData b).a = s.a := rfl
@[simp] theorem answerData_x (b : Byte) : (s.answerData b).x = s.x := rfl
@[simp] theorem answerData_y (b : Byte) : (s.answerData b).y = s.y := rfl
@[simp] theorem answerData_c (b : Byte) : (s.answerData b).c = s.c := rfl
@[simp] theorem answerData_v (b : Byte) : (s.answerData b).v = s.v := rfl
@[simp] theorem answerData_z (b : Byte) : (s.answerData b).z = s.z := rfl
@[simp] theorem answerData_n (b : Byte) : (s.answerData b).n = s.n := rfl
@[simp] theorem answerData_mem (b : Byte) : (s.answerData b).mem = s.mem := rfl
@[simp] theorem answerData_events (b : Byte) : (s.answerData b).events = s.events := rfl
@[simp] theorem answerData_resp (b : Byte) : (s.answerData b).resp = some ⟨errOk, b⟩ := rfl
@[simp] theorem answerData_freeCtr (b : Byte) : (s.answerData b).freeCtr = s.freeCtr := rfl

@[simp] theorem resetCore_cfg : (resetCore s).cfg = s.cfg := rfl
@[simp] theorem resetCore_a : (resetCore s).a = 0 := rfl
@[simp] theorem resetCore_x : (resetCore s).x = 0 := rfl
@[simp] theorem resetCore_y : (resetCore s).y = 0 := rfl
@[simp] theorem resetCore_c : (resetCore s).c = false := rfl
@[simp] theorem resetCore_v : (resetCore s).v = false := rfl
@[simp] theorem resetCore_z : (resetCore s).z = false := rfl
@[simp] theorem resetCore_n : (resetCore s).n = false := rfl
@[simp] theorem resetCore_mem : (resetCore s).mem = s.mem := rfl
@[simp] theorem resetCore_events : (resetCore s).events = s.events := rfl
@[simp] theorem resetCore_resp : (resetCore s).resp = none := rfl
@[simp] theorem resetCore_freeCtr : (resetCore s).freeCtr = s.freeCtr := rfl

@[simp] theorem resetAll_cfg (cfg : Config) : (resetAll cfg s).cfg = cfg := rfl
@[simp] theorem resetAll_a (cfg : Config) : (resetAll cfg s).a = 0 := rfl
@[simp] theorem resetAll_x (cfg : Config) : (resetAll cfg s).x = 0 := rfl
@[simp] theorem resetAll_y (cfg : Config) : (resetAll cfg s).y = 0 := rfl
@[simp] theorem resetAll_c (cfg : Config) : (resetAll cfg s).c = false := rfl
@[simp] theorem resetAll_v (cfg : Config) : (resetAll cfg s).v = false := rfl
@[simp] theorem resetAll_z (cfg : Config) : (resetAll cfg s).z = false := rfl
@[simp] theorem resetAll_n (cfg : Config) : (resetAll cfg s).n = false := rfl
@[simp] theorem resetAll_mem (cfg : Config) : (resetAll cfg s).mem = [] := rfl
@[simp] theorem resetAll_events (cfg : Config) : (resetAll cfg s).events = s.events := rfl
@[simp] theorem resetAll_resp (cfg : Config) : (resetAll cfg s).resp = none := rfl
@[simp] theorem resetAll_freeCtr (cfg : Config) : (resetAll cfg s).freeCtr = s.freeCtr := rfl

/-- The architectural state is untouched by an answer. -/
theorem sameArch_fields_answer (e : BitVec 3) : (s.answer e).outputs = s.outputs ∧ (s.answer e).mem = s.mem :=
  ⟨rfl, rfl⟩

end Sys2Proof.Machine
end

