-- ==== Sys2Proof/Laws/Ops.lean ====
section
/-!
SUPPORT. One lemma per shared operation: what it answers, in the terms of Safety.lean, and everything an answer `.ok t`
can be.  Later proofs cite these and never unfold the operations.
-/

namespace Sys2Proof.Machine

/-! ### Bits of a byte -/

theorem testBit_seven (b : Byte) : b.toNat.testBit 7 = b.msb := by
  rw [BitVec.msb_eq_getLsbD_last]; rfl

theorem testBit_zero (b : Byte) : b.toNat.testBit 0 = b[0] := rfl

theorem ofNat_toNat_byte (b : Byte) : BitVec.ofNat 8 b.toNat = b := by
  simp

/-- The low byte or-ed with the shifted high byte is their sum (R38). -/
theorem low_or_high (lo hi : Byte) : lo.toNat ||| (hi.toNat <<< 8) = lo.toNat + 256 * hi.toNat := by
  rw [Nat.or_comm, ← Nat.shiftLeft_add_eq_or_of_lt lo.isLt hi.toNat, Nat.shiftLeft_eq]
  omega

theorem and_ff_byte (v : Nat) (h : v < 256) : v &&& 0xFF = v := by
  rw [show 0xFF = 2 ^ 8 - 1 from rfl, Nat.and_two_pow_sub_one_eq_mod, Nat.mod_eq_of_lt h]

/-- R15 on a number below 256 is R15 on the byte. -/
theorem negRule_eq (cfg : Config) (v : Nat) (h : v < 256) :
    negRule cfg.nflagRule v = negFlag cfg (BitVec.ofNat 8 v) := by
  have hv : (BitVec.ofNat 8 v).toNat = v := by simp [Nat.mod_eq_of_lt h]
  unfold negRule negFlag
  cases cfg.nflagRule with
  | bit7 => simp only [← testBit_seven, hv]
  | byteFF =>
    simp only [and_ff_byte v h]
    rw [Bool.eq_iff_iff]
    simp only [beq_iff_eq, decide_eq_true_eq]
    constructor
    · rintro rfl; rfl
    · intro e; rw [e] at hv; simpa using hv.symm

/-! ### Registers -/

theorem reg_written_self (s : State) (r : Reg) (b : Byte) : (s.written r b).reg r = b := by cases r <;> rfl

theorem reg_written_of_ne (s : State) {r r' : Reg} (h : r' ≠ r) (b : Byte) : (s.written r b).reg r' = s.reg r' := by
  cases r <;> cases r' <;> first | rfl | exact absurd rfl h

@[simp] theorem written_cfg (s : State) (r : Reg) (b : Byte) : (s.written r b).cfg = s.cfg := by cases r <;> rfl
@[simp] theorem written_c (s : State) (r : Reg) (b : Byte) : (s.written r b).c = s.c := by cases r <;> rfl
@[simp] theorem written_v (s : State) (r : Reg) (b : Byte) : (s.written r b).v = s.v := by cases r <;> rfl
@[simp] theorem written_z (s : State) (r : Reg) (b : Byte) : (s.written r b).z = decide (b = 0) := by cases r <;> rfl
@[simp] theorem written_n (s : State) (r : Reg) (b : Byte) : (s.written r b).n = negFlag s.cfg b := by cases r <;> rfl
@[simp] theorem written_mem (s : State) (r : Reg) (b : Byte) : (s.written r b).mem = s.mem := by cases r <;> rfl
@[simp] theorem written_events (s : State) (r : Reg) (b : Byte) : (s.written r b).events = s.events := by
  cases r <;> rfl

/-- SetReg of a byte (R14). -/
theorem setReg_ok (s : State) (r : Reg) {v : Nat} (h : v ≤ 255) :
    setReg r v s = .ok (s.written r (BitVec.ofNat 8 v)) := by
  have hz : (v == 0) = decide (BitVec.ofNat 8 v = 0) := by
    rw [Bool.eq_iff_iff]
    simp only [beq_iff_eq, decide_eq_true_eq, ← BitVec.toNat_inj, BitVec.toNat_ofNat]
    rw [Nat.mod_eq_of_lt (by omega)]
    simp
  unfold setReg
  rw [if_neg (by omega), hz, negRule_eq _ _ (by omega)]
  cases r <;> rfl

/-- SetReg of a number above 255 (R14). -/
theorem setReg_overflow (s : State) (r : Reg) {v : Nat} (h : 255 < v) : setReg r v s = .error .registerOverflow :=
  if_pos h

theorem setReg_eq_ok {s t : State} {r : Reg} {v : Nat} (h : setReg r v s = .ok t) :
    v ≤ 255 ∧ t = s.written r (BitVec.ofNat 8 v) := by
  by_cases hv : v ≤ 255
  · rw [setReg_ok s r hv] at h; cases h; exact ⟨hv, rfl⟩
  · rw [setReg_overflow s r (by omega)] at h; cases h

theorem setReg_eq_error {s : State} {r : Reg} {v : Nat} {e : Err} (h : setReg r v s = .error e) :
    255 < v ∧ e = .registerOverflow := by
  by_cases hv : v ≤ 255
  · rw [setReg_ok s r hv] at h; cases h
  · rw [setReg_overflow s r (by omega)] at h; cases h; exact ⟨by omega, rfl⟩

/-! ### Memory -/

theorem memRead_ok {s : State} {a : Nat} (h : a < s.cfg.memSize) : memRead s a = .ok (s.mem.read a) :=
  if_neg (by omega)

theorem memRead_outOfRange {s : State} {a : Nat} (h : s.cfg.memSize ≤ a) : memRead s a = .error .outOfRange :=
  if_pos h

theorem memRead_eq_ok {s : State} {a : Nat} {b : Byte} (h : memRead s a = .ok b) :
    a < s.cfg.memSize ∧ b = s.mem.read a := by
  by_cases ha : a < s.cfg.memSize
  · rw [memRead_ok ha] at h; cases h; exact ⟨ha, rfl⟩
  · rw [memRead_outOfRange (by omega)] at h; cases h

theorem memRead_eq_error {s : State} {a : Nat} {e : Err} (h : memRead s a = .error e) :
    s.cfg.memSize ≤ a ∧ e = .outOfRange := by
  by_cases ha : a < s.cfg.memSize
  · rw [memRead_ok ha] at h; cases h
  · rw [memRead_outOfRange (by omega)] at h; cases h; exact ⟨by omega, rfl⟩

/-- MemWrite of a byte at a valid address (R32). -/
theorem memWrite_ok {s : State} {a : Nat} (ha : a < s.cfg.memSize) (b : Byte) :
    memWrite s a b.toNat = .ok (s.putMem (s.mem.writeMirrored a b)) := by
  have := b.isLt
  unfold memWrite
  rw [if_neg (by omega), if_neg (by omega)]
  simp

/-- The value is checked before the address (R32). -/
theorem memWrite_overflow {s : State} {a : Nat} {v : Int} (h : v < 0 ∨ 255 < v) :
    memWrite s a v = .error .memoryOverflow := if_pos h

theorem memWrite_outOfRange {s : State} {a : Nat} {v : Int} (h0 : 0 ≤ v) (h1 : v ≤ 255) (ha : s.cfg.memSize ≤ a) :
    memWrite s a v = .error .outOfRange := by
  unfold memWrite
  rw [if_neg (by omega), if_pos ha]

theorem memWrite_eq_ok {s t : State} {a : Nat} {v : Int} (h : memWrite s a v = .ok t) :
    0 ≤ v ∧ v ≤ 255 ∧ a < s.cfg.memSize ∧ t = s.putMem (s.mem.writeMirrored a (BitVec.ofInt 8 v)) := by
  unfold memWrite at h
  split_ifs at h with h1 h2
  cases h
  exact ⟨by omega, by omega, by omega, rfl⟩

theorem memWrite_eq_error {s : State} {a : Nat} {v : Int} {e : Err} (h : memWrite s a v = .error e) :
    ((v < 0 ∨ 255 < v) ∧ e = .memoryOverflow) ∨ (0 ≤ v ∧ v ≤ 255 ∧ s.cfg.memSize ≤ a ∧ e = .outOfRange) := by
  unfold memWrite at h
  split_ifs at h with h1 h2
  · cases h; exact .inl ⟨h1, rfl⟩
  · cases h; exact .inr ⟨by omega, by omega, h2, rfl⟩

/-- The cells of a write are its own and its mirror partner's (R32, R42). -/
theorem writeReaches_iff (a b : Nat) : WriteReaches a b ↔ b = a ∨ mirrorOf a = some b := by
  unfold WriteReaches mirrorOf
  split_ifs <;> simp only [Option.some.injEq, or_false] <;> omega

theorem read_writeMirrored (m : Memory) (a b : Nat) (v : Byte) :
    (WriteReaches a b → (m.writeMirrored a v).read b = v) ∧
    (¬ WriteReaches a b → (m.writeMirrored a v).read b = m.read b) := by
  rw [memory_read_writeMirrored, writeReaches_iff]
  exact ⟨fun h => if_pos h, fun h => if_neg h⟩

/-! ### Addresses and operands -/

/-- Read16 of two valid cells (R38). -/
theorem read16_ok {s : State} {p : Nat} (h : p + 1 < s.cfg.memSize) : read16 s p = .ok (s.pointerAt p) := by
  unfold read16
  rw [memRead_ok (by omega), memRead_ok h]
  simp only [Except.bind, low_or_high]
  rfl

/-- Read16 stops when either cell is out of range (R38, R46). -/
theorem read16_outOfRange {s : State} {p : Nat} (h : s.cfg.memSize ≤ p + 1) : read16 s p = .error .outOfRange := by
  unfold read16
  by_cases hp : p < s.cfg.memSize
  · rw [memRead_ok hp, memRead_outOfRange h]; rfl
  · rw [memRead_outOfRange (by omega)]; rfl

theorem ea_imm (arg : Half) (s : State) : ea .imm arg s = .ok arg.toNat := rfl

theorem ea_abs (arg : Half) (s : State) : ea .abs arg s = .ok arg.toNat := rfl

theorem ea_absIdx (i : Idx) (arg : Half) (s : State) :
    ea (.absIdx i) arg s = .ok (arg.toNat + (s.index i).toNat) := rfl

theorem ea_indX_ok {arg : Half} {s : State} (h : arg.toNat + s.x.toNat + 1 < s.cfg.memSize) :
    ea .indX arg s = .ok (s.pointerAt (arg.toNat + s.x.toNat)) := read16_ok h

theorem ea_indX_outOfRange {arg : Half} {s : State} (h : s.cfg.memSize ≤ arg.toNat + s.x.toNat + 1) :
    ea .indX arg s = .error .outOfRange := read16_outOfRange h

theorem ea_indY_ok {arg : Half} {s : State} (h : arg.toNat + 1 < s.cfg.memSize) :
    ea .indY arg s = .ok (s.pointerAt arg.toNat + s.y.toNat) := by
  unfold ea resolveIndY
  simp only [read16_ok h]
  rfl

theorem ea_indY_outOfRange {arg : Half} {s : State} (h : s.cfg.memSize ≤ arg.toNat + 1) :
    ea .indY arg s = .error .outOfRange := by
  unfold ea resolveIndY
  simp only [read16_outOfRange h]
  rfl

/-- An address is resolved or out of range; there is no third case. -/
theorem ea_cases (f : Form) (arg : Half) (s : State) : (∃ a, ea f arg s = .ok a) ∨ ea f arg s = .error .outOfRange := by
  cases f with
  | imm => exact .inl ⟨_, rfl⟩
  | abs => exact .inl ⟨_, rfl⟩
  | absIdx i => exact .inl ⟨_, rfl⟩
  | indX =>
    by_cases h : arg.toNat + s.x.toNat + 1 < s.cfg.memSize
    · exact .inl ⟨_, ea_indX_ok h⟩
    · exact .inr (ea_indX_outOfRange (by omega))
  | indY =>
    by_cases h : arg.toNat + 1 < s.cfg.memSize
    · exact .inl ⟨_, ea_indY_ok h⟩
    · exact .inr (ea_indY_outOfRange (by omega))

theorem readAtEa_ok {f : Form} {arg : Half} {s : State} {a : Nat} (h : ea f arg s = .ok a) (ha : a < s.cfg.memSize) :
    readAtEa f arg s = .ok (s.mem.read a) := by
  unfold readAtEa
  rw [h]
  exact memRead_ok ha

theorem readAtEa_outOfRange {f : Form} {arg : Half} {s : State} (h : s.addressFails f arg) :
    readAtEa f arg s = .error .outOfRange := by
  unfold readAtEa
  rcases ea_cases f arg s with ⟨a, ha⟩ | he
  · rw [ha]; exact memRead_outOfRange (h a ha)
  · rw [he]; rfl

/-- An effective address names a cell or fails. -/
theorem address_cases (f : Form) (arg : Half) (s : State) :
    (∃ a, ea f arg s = .ok a ∧ a < s.cfg.memSize) ∨ s.addressFails f arg := by
  by_cases h : s.addressFails f arg
  · exact .inr h
  · unfold State.addressFails at h
    push Not at h
    exact .inl h

theorem not_addressFails {f : Form} {arg : Half} {s : State} {a : Nat} (h : ea f arg s = .ok a)
    (ha : a < s.cfg.memSize) : ¬ s.addressFails f arg := fun hf => absurd (hf a h) (by omega)

theorem loadValue_eq {f : Form} (hf : f ≠ .imm) (arg : Half) (s : State) :
    loadValue f arg s = (readAtEa f arg s).bind fun b => .ok b.toNat := by
  cases f <;> first | rfl | exact absurd rfl hf

theorem operand_eq {f : Form} (hf : f ≠ .imm) (arg : Half) (s : State) : operand f arg s = readAtEa f arg s := by
  cases f <;> first | rfl | exact absurd rfl hf

theorem operand_imm (arg : Half) (s : State) : operand .imm arg s = .ok (arg.setWidth 8) := rfl

/-- An operand is a byte, or its address fails. -/
theorem operand_cases (f : Form) (arg : Half) (s : State) :
    ((∃ m, operand f arg s = .ok m) ∧ (f ≠ .imm → ¬ s.addressFails f arg)) ∨
    (f ≠ .imm ∧ s.addressFails f arg ∧ operand f arg s = .error .outOfRange) := by
  by_cases hf : f = .imm
  · subst hf; exact .inl ⟨⟨_, rfl⟩, fun h => absurd rfl h⟩
  · rw [operand_eq hf]
    rcases address_cases f arg s with ⟨a, ha, hlt⟩ | h
    · exact .inl ⟨⟨_, readAtEa_ok ha hlt⟩, fun _ => not_addressFails ha hlt⟩
    · exact .inr ⟨hf, h, readAtEa_outOfRange h⟩

/-! ### The shared meanings -/

/-- LOAD of a literal byte (R82, R87, R92). -/
theorem load_imm_ok (r : Reg) {arg : Half} (s : State) (h : arg.toNat ≤ 255) :
    load r .imm arg s = .ok (s.written r (arg.setWidth 8)) := by
  have : load r .imm arg s = setReg r arg.toNat s := rfl
  rw [this, setReg_ok s r h]
  congr 2

/-- LOAD of the byte at a valid effective address (R80). -/
theorem load_ok {r : Reg} {f : Form} (hf : f ≠ .imm) {arg : Half} {s : State} {a : Nat} (h : ea f arg s = .ok a)
    (ha : a < s.cfg.memSize) : load r f arg s = .ok (s.written r (s.mem.read a)) := by
  have hb := (s.mem.read a).isLt
  unfold load
  rw [loadValue_eq hf, readAtEa_ok h ha]
  simp only [Except.bind]
  rw [setReg_ok s r (by omega), ofNat_toNat_byte]

theorem load_outOfRange {r : Reg} {f : Form} (hf : f ≠ .imm) {arg : Half} {s : State}
    (h : s.addressFails f arg) : load r f arg s = .error .outOfRange := by
  unfold load
  rw [loadValue_eq hf, readAtEa_outOfRange h]
  rfl

/-- All a LOAD can do: write the register, refuse a wide literal, or find no cell. -/
theorem load_cases (r : Reg) (f : Form) (arg : Half) (s : State) :
    ((∃ b, load r f arg s = .ok (s.written r b)) ∧ (f ≠ .imm → ¬ s.addressFails f arg)) ∨
    (f = .imm ∧ 255 < arg.toNat ∧ load r f arg s = .error .registerOverflow) ∨
    (f ≠ .imm ∧ s.addressFails f arg ∧ load r f arg s = .error .outOfRange) := by
  by_cases hf : f = .imm
  · subst hf
    by_cases h : arg.toNat ≤ 255
    · exact .inl ⟨⟨_, load_imm_ok r s h⟩, fun h => absurd rfl h⟩
    · exact .inr (.inl ⟨rfl, by omega, setReg_overflow s r (by omega)⟩)
  · rcases address_cases f arg s with ⟨a, ha, hlt⟩ | h
    · exact .inl ⟨⟨_, load_ok hf ha hlt⟩, fun _ => not_addressFails ha hlt⟩
    · exact .inr (.inr ⟨hf, h, load_outOfRange hf h⟩)

/-- STORE at a valid effective address (R81). -/
theorem store_ok {r : Reg} {f : Form} {arg : Half} {s : State} {a : Nat} (h : ea f arg s = .ok a)
    (ha : a < s.cfg.memSize) : store r f arg s = .ok (s.putMem (s.mem.writeMirrored a (s.reg r))) := by
  unfold store
  rw [h]
  exact memWrite_ok ha (s.reg r)

theorem store_outOfRange {r : Reg} {f : Form} {arg : Half} {s : State}
    (h : s.addressFails f arg) : store r f arg s = .error .outOfRange := by
  have hb := (s.reg r).isLt
  unfold store
  rcases ea_cases f arg s with ⟨a, ha⟩ | he
  · rw [ha]; exact memWrite_outOfRange (by omega) (by omega) (h a ha)
  · rw [he]; rfl

/-- All a STORE can do. -/
theorem store_cases (r : Reg) (f : Form) (arg : Half) (s : State) :
    (∃ a, ea f arg s = .ok a ∧ a < s.cfg.memSize ∧
      store r f arg s = .ok (s.putMem (s.mem.writeMirrored a (s.reg r)))) ∨
    (s.addressFails f arg ∧ store r f arg s = .error .outOfRange) := by
  rcases address_cases f arg s with ⟨a, ha, hlt⟩ | h
  · exact .inl ⟨a, ha, hlt, store_ok ha hlt⟩
  · exact .inr ⟨h, store_outOfRange h⟩

/-- The sign test of R110 and R111 under `MOS6502`, on the bits it looks at. -/
theorem and_bit_seven_ne_zero (x : Nat) : (x &&& 0x80 != 0) = x.testBit 7 := by
  rw [show 0x80 = 2 ^ 7 from rfl, Nat.and_two_pow]
  cases x.testBit 7 <;> simp

theorem signChange_eq (a : Byte) {res : Nat} (h : res < 256) :
    signChange a res = (a.msb != (BitVec.ofNat 8 res).msb) := by
  rw [signChange, ← testBit_seven, ← testBit_seven]
  simp [Nat.mod_eq_of_lt h]

theorem adcOverflow_mos (a m : Byte) {res : Nat} (h : res < 256) :
    adcOverflow .mos6502 a m res = (a.msb == m.msb && a.msb != (BitVec.ofNat 8 res).msb) := by
  have hr : (BitVec.ofNat 8 res).msb = res.testBit 7 := by
    rw [← testBit_seven]; simp [Nat.mod_eq_of_lt h]
  simp only [adcOverflow, and_bit_seven_ne_zero, Nat.testBit_and, Nat.testBit_xor, testBit_seven, hr]
  cases a.msb <;> cases m.msb <;> cases res.testBit 7 <;> rfl

theorem sbcOverflow_mos (a m : Byte) {res : Nat} (h : res < 256) :
    sbcOverflow .mos6502 a m res = (a.msb != m.msb && a.msb != (BitVec.ofNat 8 res).msb) := by
  have hr : (BitVec.ofNat 8 res).msb = res.testBit 7 := by
    rw [← testBit_seven]; simp [Nat.mod_eq_of_lt h]
  simp only [sbcOverflow, and_bit_seven_ne_zero, Nat.testBit_and, Nat.testBit_xor, testBit_seven, hr]
  cases a.msb <;> cases m.msb <;> cases res.testBit 7 <;> rfl

/-- AdcCore (R110) never fails and leaves `afterAdc`. -/
theorem adcCore_ok (m : Byte) (s : State) : adcCore m s = .ok (s.afterAdc m) := by
  unfold adcCore State.afterAdc adcRaw adcResult
  cases hp : s.cfg.arithProfile with
  | documented =>
    simp only
    rw [setReg_ok _ _ (by omega), adcOverflow, signChange_eq _ (by omega)]
    by_cases hs : s.a.toNat + m.toNat + s.c.toNat ≤ 255
    · rw [if_pos hs, Nat.min_eq_right hs]; rfl
    · rw [if_neg hs, Nat.min_eq_left (by omega)]; rfl
  | mos6502 =>
    simp only
    rw [setReg_ok _ _ (by omega), adcOverflow_mos _ _ (by omega)]
    have : BitVec.ofNat 8 ((s.a.toNat + m.toNat + s.c.toNat) % 256) = BitVec.ofNat 8 (s.a.toNat + m.toNat + s.c.toNat) := by
      apply BitVec.eq_of_toNat_eq; simp
    rw [this]
    rfl

theorem ofNat_sbcResult (raw : Int) : BitVec.ofNat 8 (sbcResult raw) = BitVec.ofInt 8 raw := by
  apply BitVec.eq_of_toNat_eq
  simp only [sbcResult, BitVec.toNat_ofNat, BitVec.toNat_ofInt]
  omega

/-- SbcCore (R111) never fails and leaves `afterSbc`. -/
theorem sbcCore_ok (m : Byte) (s : State) : sbcCore m s = .ok (s.afterSbc m) := by
  have hraw : sbcRaw s.a m s.c = (s.a.toNat : Int) - m.toNat - (if s.c then 0 else 1) := by
    unfold sbcRaw; cases s.c <;> rfl
  have hlt : sbcResult (sbcRaw s.a m s.c) < 256 := by unfold sbcResult; omega
  unfold sbcCore State.afterSbc
  simp only
  rw [setReg_ok _ _ (by omega), ← hraw, ← ofNat_sbcResult]
  cases hp : s.cfg.arithProfile with
  | documented => simp only [sbcOverflow, signChange_eq _ hlt]; rfl
  | mos6502 => simp only [sbcOverflow_mos _ _ hlt]; rfl

/-- ADC is its core on its operand, or out of range (R112). -/
theorem adc_of_operand {f : Form} {arg : Half} {s : State} {m : Byte} (h : operand f arg s = .ok m) :
    adc f arg s = .ok (s.afterAdc m) := by
  unfold adc; rw [h]; exact adcCore_ok m s

theorem adc_of_error {f : Form} {arg : Half} {s : State} {e : Err} (h : operand f arg s = .error e) :
    adc f arg s = .error e := by
  unfold adc; rw [h]; rfl

/-- SBC is its core on its operand, or out of range (R112). -/
theorem sbc_of_operand {f : Form} {arg : Half} {s : State} {m : Byte} (h : operand f arg s = .ok m) :
    sbc f arg s = .ok (s.afterSbc m) := by
  unfold sbc; rw [h]; exact sbcCore_ok m s

theorem sbc_of_error {f : Form} {arg : Half} {s : State} {e : Err} (h : operand f arg s = .error e) :
    sbc f arg s = .error e := by
  unfold sbc; rw [h]; rfl

/-- AND, ORA, EOR commit the bitwise result (R150). -/
theorem andLogic_of_operand {f : Form} {arg : Half} {s : State} {m : Byte} (h : operand f arg s = .ok m) :
    andLogic f arg s = .ok (s.written .a (s.a &&& m)) := by
  have := (s.a &&& m).isLt
  rw [andLogic, h, ← ofNat_toNat_byte (s.a &&& m)]
  exact setReg_ok s .a (v := s.a.toNat &&& m.toNat) (by rw [← BitVec.toNat_and]; omega)

theorem andLogic_of_error {f : Form} {arg : Half} {s : State} {e : Err} (h : operand f arg s = .error e) :
    andLogic f arg s = .error e := by
  unfold andLogic; rw [h]; rfl

theorem oraLogic_of_operand {f : Form} {arg : Half} {s : State} {m : Byte} (h : operand f arg s = .ok m) :
    oraLogic f arg s = .ok (s.written .a (s.a ||| m)) := by
  have := (s.a ||| m).isLt
  rw [oraLogic, h, ← ofNat_toNat_byte (s.a ||| m)]
  exact setReg_ok s .a (v := s.a.toNat ||| m.toNat) (by rw [← BitVec.toNat_or]; omega)

theorem oraLogic_of_error {f : Form} {arg : Half} {s : State} {e : Err} (h : operand f arg s = .error e) :
    oraLogic f arg s = .error e := by
  unfold oraLogic; rw [h]; rfl

theorem eorLogic_of_operand {f : Form} {arg : Half} {s : State} {m : Byte} (h : operand f arg s = .ok m) :
    eorLogic f arg s = .ok (s.written .a (s.a ^^^ m)) := by
  have := (s.a ^^^ m).isLt
  rw [eorLogic, h, ← ofNat_toNat_byte (s.a ^^^ m)]
  exact setReg_ok s .a (v := s.a.toNat ^^^ m.toNat) (by rw [← BitVec.toNat_xor]; omega)

theorem eorLogic_of_error {f : Form} {arg : Half} {s : State} {e : Err} (h : operand f arg s = .error e) :
    eorLogic f arg s = .error e := by
  unfold eorLogic; rw [h]; rfl

/-- A shift commits a byte and the bit shifted out (R150). -/
theorem shift_ok (out : Bool) {res : Nat} (h : res ≤ 255) (s : State) :
    shift out res s = .ok ({ s with c := out }.written .a (BitVec.ofNat 8 res)) :=
  setReg_ok _ .a h

/-- The four results of R166 to R169 as bytes. -/
theorem aslResult_eq (a : Byte) : aslResult a ≤ 255 ∧ BitVec.ofNat 8 (aslResult a) = a <<< 1 := by
  revert a; decide

theorem lsrResult_eq (a : Byte) : lsrResult a ≤ 255 ∧ BitVec.ofNat 8 (lsrResult a) = a >>> 1 := by
  revert a; decide

theorem rolResult_eq (a : Byte) (c : Bool) :
    rolResult a c ≤ 255 ∧ BitVec.ofNat 8 (rolResult a c) = a <<< 1 ||| BitVec.setWidth 8 (BitVec.ofBool c) := by
  revert a c; decide

theorem rorResult_eq (a : Byte) (c : Bool) :
    rorResult a c ≤ 255 ∧ BitVec.ofNat 8 (rorResult a c) = a >>> 1 ||| BitVec.ofBool c ++ 0#7 := by
  revert a c; decide

/-- IncCore away from its edge, or wrapping (R130). -/
theorem incCore_ok {s : State} {a : Nat} (ha : a < s.cfg.memSize)
    (h : s.mem.read a ≠ 0xFF ∨ s.cfg.incDecEdge = .wrap) :
    incCore a s = .ok (s.putMem (s.mem.writeMirrored a (s.mem.read a + 1))) := by
  have hb := (s.mem.read a).isLt
  have key : edgeValue s.cfg.incDecEdge ((s.mem.read a).toNat + 1) = ((s.mem.read a + 1).toNat : Int) := by
    rw [BitVec.toNat_add, show (1 : Byte).toNat = 1 from rfl]
    unfold edgeValue
    cases he : s.cfg.incDecEdge with
    | fault =>
      have hne : (s.mem.read a).toNat ≠ 255 := fun e =>
        (h.resolve_right (by rw [he]; exact fun h => by cases h)) (BitVec.eq_of_toNat_eq (by rw [e]; rfl))
      simp only
      omega
    | wrap => simp only; omega
  unfold incCore
  rw [memRead_ok ha]
  simp only [Except.bind]
  rw [key, memWrite_ok ha]

theorem incCore_edge {s : State} {a : Nat} (ha : a < s.cfg.memSize) (h : s.mem.read a = 0xFF)
    (he : s.cfg.incDecEdge = .fault) : incCore a s = .error .memoryOverflow := by
  unfold incCore
  rw [memRead_ok ha, h, he]
  exact memWrite_overflow (by decide)

/-- DecCore away from its edge, or wrapping (R131). -/
theorem decCore_ok {s : State} {a : Nat} (ha : a < s.cfg.memSize)
    (h : s.mem.read a ≠ 0x00 ∨ s.cfg.incDecEdge = .wrap) :
    decCore a s = .ok (s.putMem (s.mem.writeMirrored a (s.mem.read a + -1))) := by
  have hb := (s.mem.read a).isLt
  have key : edgeValue s.cfg.incDecEdge ((s.mem.read a).toNat - 1) = ((s.mem.read a + -1).toNat : Int) := by
    rw [BitVec.toNat_add, show (-1 : Byte).toNat = 255 from rfl]
    unfold edgeValue
    cases he : s.cfg.incDecEdge with
    | fault =>
      have hne : (s.mem.read a).toNat ≠ 0 := fun e =>
        (h.resolve_right (by rw [he]; exact fun h => by cases h)) (BitVec.eq_of_toNat_eq (by rw [e]; rfl))
      simp only
      omega
    | wrap => simp only; omega
  unfold decCore
  rw [memRead_ok ha]
  simp only [Except.bind]
  rw [key, memWrite_ok ha]

theorem decCore_edge {s : State} {a : Nat} (ha : a < s.cfg.memSize) (h : s.mem.read a = 0x00)
    (he : s.cfg.incDecEdge = .fault) : decCore a s = .error .memoryOverflow := by
  unfold decCore
  rw [memRead_ok ha, h, he]
  exact memWrite_overflow (by decide)

/-- All INC can do. -/
theorem inc_cases (f : Form) (arg : Half) (s : State) :
    (∃ a, ea f arg s = .ok a ∧ a < s.cfg.memSize ∧ (s.mem.read a ≠ 0xFF ∨ s.cfg.incDecEdge = .wrap) ∧
      inc f arg s = .ok (s.putMem (s.mem.writeMirrored a (s.mem.read a + 1)))) ∨
    (s.cfg.incDecEdge = .fault ∧ (∃ a, ea f arg s = .ok a ∧ a < s.cfg.memSize ∧ s.mem.read a = 0xFF) ∧
      inc f arg s = .error .memoryOverflow) ∨
    (s.addressFails f arg ∧ inc f arg s = .error .outOfRange) := by
  unfold inc
  rcases ea_cases f arg s with ⟨a, ha⟩ | he
  · rw [ha]
    by_cases hlt : a < s.cfg.memSize
    · by_cases hv : s.mem.read a ≠ 0xFF ∨ s.cfg.incDecEdge = .wrap
      · exact .inl ⟨a, rfl, hlt, hv, incCore_ok hlt hv⟩
      · rw [not_or, not_not] at hv
        have hf : s.cfg.incDecEdge = .fault := by
          cases h : s.cfg.incDecEdge with
          | fault => rfl
          | wrap => exact absurd h hv.2
        exact .inr (.inl ⟨hf, ⟨a, rfl, hlt, hv.1⟩, incCore_edge hlt hv.1 hf⟩)
    · refine .inr (.inr ⟨fun a' h => ?_, ?_⟩)
      · rw [ha] at h; cases h; omega
      · simp only [Except.bind, incCore, memRead_outOfRange (show s.cfg.memSize ≤ a by omega)]
  · refine .inr (.inr ⟨fun a' h => ?_, ?_⟩)
    · rw [he] at h; cases h
    · rw [he]; rfl

/-- All DEC can do. -/
theorem dec_cases (f : Form) (arg : Half) (s : State) :
    (∃ a, ea f arg s = .ok a ∧ a < s.cfg.memSize ∧ (s.mem.read a ≠ 0x00 ∨ s.cfg.incDecEdge = .wrap) ∧
      dec f arg s = .ok (s.putMem (s.mem.writeMirrored a (s.mem.read a + -1)))) ∨
    (s.cfg.incDecEdge = .fault ∧ (∃ a, ea f arg s = .ok a ∧ a < s.cfg.memSize ∧ s.mem.read a = 0x00) ∧
      dec f arg s = .error .memoryOverflow) ∨
    (s.addressFails f arg ∧ dec f arg s = .error .outOfRange) := by
  unfold dec
  rcases ea_cases f arg s with ⟨a, ha⟩ | he
  · rw [ha]
    by_cases hlt : a < s.cfg.memSize
    · by_cases hv : s.mem.read a ≠ 0x00 ∨ s.cfg.incDecEdge = .wrap
      · exact .inl ⟨a, rfl, hlt, hv, decCore_ok hlt hv⟩
      · rw [not_or, not_not] at hv
        have hf : s.cfg.incDecEdge = .fault := by
          cases h : s.cfg.incDecEdge with
          | fault => rfl
          | wrap => exact absurd h hv.2
        exact .inr (.inl ⟨hf, ⟨a, rfl, hlt, hv.1⟩, decCore_edge hlt hv.1 hf⟩)
    · refine .inr (.inr ⟨fun a' h => ?_, ?_⟩)
      · rw [ha] at h; cases h; omega
      · simp only [Except.bind, decCore, memRead_outOfRange (show s.cfg.memSize ≤ a by omega)]
  · refine .inr (.inr ⟨fun a' h => ?_, ?_⟩)
    · rw [he] at h; cases h
    · rw [he]; rfl

/-! ### Answers -/

/-- A command whose meaning concludes OK. -/
theorem answers_of_ok {i : Instr} {s t : State} {r : Except Err State} (h : exec i s = conclude s r) (hr : r = .ok t) :
    Answers i s 0 t := by
  subst hr; exact ⟨_, _, h⟩

/-- A command whose meaning concludes with an error (R186). -/
theorem answers_of_error {i : Instr} {s : State} {r : Except Err State} {e : Err} (h : exec i s = conclude s r)
    (hr : r = .error e) : Answers i s e.code s := by
  subst hr; exact ⟨_, _, h⟩

/-- A command whose meaning concludes with a store. -/
theorem answersStore_of_ok {i : Instr} {s : State} {r : Except Err State} {a : Nat} {v : Byte}
    (h : exec i s = conclude s r) (hr : r = .ok (s.putMem (s.mem.writeMirrored a v))) : AnswersStore i s a v :=
  ⟨_, answers_of_ok h hr, fun b => read_writeMirrored s.mem a b v⟩

/-- What a concluded meaning's next state is. -/
theorem conclude_eq_next {s t : State} {r : Except Err State} (h : conclude s r = .next t) :
    (∃ u, r = .ok u ∧ t = u.answer errOk) ∨ (∃ e, r = .error e ∧ t = s.answer e.code) := by
  cases r with
  | ok u => exact .inl ⟨u, rfl, by cases h; rfl⟩
  | error e => exact .inr ⟨e, rfl, by cases h; rfl⟩

end Sys2Proof.Machine
end

