-- ==== Sys2Proof/Laws/Exec.lean ====
section
/-!
SUPPORT. What a command can do, once for all 69: a completed MEMRD, a register write, a carry write, a memory write, or
one of three errors, each with what the tables of Safety.lean say of the command.  And the same for a step.
-/

namespace Sys2Proof.Machine

/-- The sources of MemoryOverflow (60_exceptions.md R182). -/
def MemoryOverflowSource (i : Instr) (s : State) : Prop :=
  (∃ arg val : Half, i = .memwr arg val ∧ 0xFF < val.toNat) ∨
  (s.cfg.incDecEdge = .fault ∧ ∃ f arg a, i.address = some (f, arg) ∧ ea f arg s = .ok a ∧ a < s.cfg.memSize ∧
    (i.isInc = true ∧ s.mem.read a = 0xFF ∨ i.isDec = true ∧ s.mem.read a = 0x00))

/-- The source of OutOfRange (60_exceptions.md R183). -/
def OutOfRangeSource (i : Instr) (s : State) : Prop := ∃ f arg, i.address = some (f, arg) ∧ s.addressFails f arg

/-- The sources of RegisterOverflow (60_exceptions.md R181). -/
def WideLiteral (i : Instr) : Prop :=
  ∃ arg : Half, 0xFF < arg.toNat ∧ (i = .ldaImm arg ∨ i = .ldxImm arg ∨ i = .ldyImm arg)

/-- The states a command can leave, each with when it leaves it. -/
inductive Effect (i : Instr) (s : State) : State → Prop
  | data (arg : Half) (hi : i = .memrd arg) (ha : arg.toNat < s.cfg.memSize) :
      Effect i s (s.answerData (s.mem.read arg.toNat))
  | register (r : Reg) (b : Byte) (c v : Bool) (hr : i.regWritten = some r) (hm : i.writesMem = false)
      (hc : i.writesC = false → c = s.c) (hv : i.writesV = false → v = s.v) (ho : ¬ OutOfRangeSource i s) :
      Effect i s ((({ s with c := c, v := v } : State).written r b).answer errOk)
  | carry (c : Bool) (hr : i.regWritten = none) (hm : i.writesMem = false) (hc : i.writesC = true)
      (hv : i.writesV = false) (ho : i.address = none) : Effect i s (({ s with c := c } : State).answer errOk)
  | memory (f : Form) (arg : Half) (a : Nat) (b : Byte) (hf : i.address = some (f, arg)) (hea : ea f arg s = .ok a)
      (ha : a < s.cfg.memSize) (hr : i.regWritten = none) (hm : i.writesMem = true) (hc : i.writesC = false)
      (hv : i.writesV = false) (hs : ¬ MemoryOverflowSource i s) :
      Effect i s ((s.putMem (s.mem.writeMirrored a b)).answer errOk)
  | registerOverflow (h : WideLiteral i) : Effect i s (s.answer Err.registerOverflow.code)
  | memoryOverflow (h : MemoryOverflowSource i s) : Effect i s (s.answer Err.memoryOverflow.code)
  | outOfRange (h : OutOfRangeSource i s) (hs : ¬ MemoryOverflowSource i s) :
      Effect i s (s.answer Err.outOfRange.code)

/-- A command that ends in a state it can leave. -/
def Runs (i : Instr) (s : State) (o : Result) : Prop := ∃ t, o = .next t ∧ Effect i s t

variable {i : Instr} {s : State}

/-! ### When the errors are raised -/

theorem memoryOverflowSource_writesMem (h : MemoryOverflowSource i s) : i.writesMem = true := by
  rcases h with ⟨_, _, rfl, _⟩ | ⟨_, _, _, _, _, _, _, ⟨h, _⟩ | ⟨h, _⟩⟩
  · rfl
  all_goals cases i <;> first | rfl | cases h

/-- At one effective address the sources of MemoryOverflow are what that cell holds; elsewhere there are none. -/
theorem not_memoryOverflowSource {f : Form} {arg : Half} (hf : i.address = some (f, arg))
    (hw : ∀ a v, i = .memwr a v → v.toNat ≤ 0xFF)
    (h : ∀ a, ea f arg s = .ok a → a < s.cfg.memSize → s.cfg.incDecEdge = .fault →
      ¬ (i.isInc = true ∧ s.mem.read a = 0xFF ∨ i.isDec = true ∧ s.mem.read a = 0x00)) :
    ¬ MemoryOverflowSource i s := by
  rintro (⟨_, v, hi, hv⟩ | ⟨he, f', arg', a, hf', hea, ha, hv⟩)
  · exact absurd (hw _ v hi) (by omega)
  · rw [hf] at hf'
    cases hf'
    exact h a hea ha he hv

theorem outOfRangeSource_iff {f : Form} {arg : Half} (hf : i.address = some (f, arg)) :
    OutOfRangeSource i s ↔ s.addressFails f arg := by
  refine ⟨?_, fun h => ⟨f, arg, hf, h⟩⟩
  rintro ⟨f', arg', hf', h⟩
  rw [hf] at hf'
  cases hf'
  exact h

theorem not_outOfRangeSource (h : i.address = none) : ¬ OutOfRangeSource i s := by
  rintro ⟨_, _, h', _⟩
  rw [h] at h'
  cases h'

/-- The address of a command whose IMM form is a literal (R80, R112). -/
def operandAddress (f : Form) (arg : Half) : Option (Form × Half) := if f = .imm then none else some (f, arg)

theorem not_outOfRangeSource_operand {f : Form} {arg : Half} (ha : i.address = operandAddress f arg)
    (h : f ≠ .imm → ¬ s.addressFails f arg) : ¬ OutOfRangeSource i s := by
  by_cases hf : f = .imm
  · exact not_outOfRangeSource (by rw [ha, operandAddress, if_pos hf])
  · rw [outOfRangeSource_iff (by rw [ha, operandAddress, if_neg hf])]; exact h hf

/-! ### The shared meanings -/

theorem runs_outOfRange {f : Form} {arg : Half} (hf : i.address = some (f, arg)) (h : s.addressFails f arg)
    (hw : ∀ a v, i = .memwr a v → v.toNat ≤ 0xFF) : Runs i s (conclude s (.error .outOfRange)) :=
  ⟨_, rfl, .outOfRange ⟨f, arg, hf, h⟩
    (not_memoryOverflowSource hf hw fun _ hea ha _ _ => not_addressFails hea ha h)⟩

theorem runs_operandOutOfRange {f : Form} {arg : Half} (hm : i.writesMem = false) (hf : f ≠ .imm)
    (h : s.addressFails f arg) (ha : i.address = operandAddress f arg) :
    Runs i s (conclude s (.error .outOfRange)) :=
  runs_outOfRange (by rw [ha, operandAddress, if_neg hf]) h fun _ _ h => by subst h; cases hm

theorem runs_register {r : Reg} (b : Byte) (hr : i.regWritten = some r) (hm : i.writesMem = false)
    (ho : ¬ OutOfRangeSource i s) : Runs i s (conclude s (.ok (s.written r b))) :=
  ⟨_, rfl, .register r b s.c s.v hr hm (fun _ => rfl) (fun _ => rfl) ho⟩

theorem runs_load (r : Reg) (f : Form) (arg : Half) (hr : i.regWritten = some r) (hm : i.writesMem = false)
    (ha : i.address = operandAddress f arg) (ho : f = .imm → 255 < arg.toNat → WideLiteral i) :
    Runs i s (conclude s (load r f arg s)) := by
  rcases load_cases r f arg s with ⟨⟨b, h⟩, hn⟩ | ⟨hf, hw, h⟩ | ⟨hf, hx, h⟩ <;> rw [h]
  · exact runs_register b hr hm (not_outOfRangeSource_operand ha hn)
  · exact ⟨_, rfl, .registerOverflow (ho hf hw)⟩
  · exact runs_operandOutOfRange hm hf hx ha

theorem runs_store (r : Reg) (f : Form) (arg : Half) (hr : i.regWritten = none) (hm : i.writesMem = true)
    (hc : i.writesC = false) (hv : i.writesV = false) (ha : i.address = some (f, arg)) (hi : i.isInc = false)
    (hd : i.isDec = false) (hw : ∀ a v, i ≠ .memwr a v) : Runs i s (conclude s (store r f arg s)) := by
  have hw' : ∀ a v, i = .memwr a v → v.toNat ≤ 0xFF := fun a v h => absurd h (hw a v)
  rcases store_cases r f arg s with ⟨a, hea, hlt, h⟩ | ⟨hx, h⟩ <;> rw [h]
  · exact ⟨_, rfl, .memory f arg a _ ha hea hlt hr hm hc hv
      (not_memoryOverflowSource ha hw' fun _ _ _ _ => by simp [hi, hd])⟩
  · exact runs_outOfRange ha hx hw'

theorem runs_adc (f : Form) (arg : Half) (hr : i.regWritten = some .a) (hm : i.writesMem = false)
    (hc : i.writesC = true) (hv : i.writesV = true) (ha : i.address = operandAddress f arg) :
    Runs i s (conclude s (adc f arg s)) := by
  rcases operand_cases f arg s with ⟨⟨m, h⟩, hn⟩ | ⟨hf, hx, h⟩
  · rw [adc_of_operand h]
    unfold State.afterAdc
    cases s.cfg.arithProfile <;>
      exact ⟨_, rfl, .register .a _ _ _ hr hm (fun h => by simp [h] at hc) (fun h => by simp [h] at hv)
        (not_outOfRangeSource_operand ha hn)⟩
  · rw [adc_of_error h]; exact runs_operandOutOfRange hm hf hx ha

theorem runs_sbc (f : Form) (arg : Half) (hr : i.regWritten = some .a) (hm : i.writesMem = false)
    (hc : i.writesC = true) (hv : i.writesV = true) (ha : i.address = operandAddress f arg) :
    Runs i s (conclude s (sbc f arg s)) := by
  rcases operand_cases f arg s with ⟨⟨m, h⟩, hn⟩ | ⟨hf, hx, h⟩
  · rw [sbc_of_operand h]
    unfold State.afterSbc
    cases s.cfg.arithProfile <;>
      exact ⟨_, rfl, .register .a _ _ _ hr hm (fun h => by simp [h] at hc) (fun h => by simp [h] at hv)
        (not_outOfRangeSource_operand ha hn)⟩
  · rw [sbc_of_error h]; exact runs_operandOutOfRange hm hf hx ha

theorem runs_and (f : Form) (arg : Half) (hr : i.regWritten = some .a) (hm : i.writesMem = false)
    (ha : i.address = operandAddress f arg) : Runs i s (conclude s (andLogic f arg s)) := by
  rcases operand_cases f arg s with ⟨⟨m, h⟩, hn⟩ | ⟨hf, hx, h⟩
  · rw [andLogic_of_operand h]; exact runs_register _ hr hm (not_outOfRangeSource_operand ha hn)
  · rw [andLogic_of_error h]; exact runs_operandOutOfRange hm hf hx ha

theorem runs_ora (f : Form) (arg : Half) (hr : i.regWritten = some .a) (hm : i.writesMem = false)
    (ha : i.address = operandAddress f arg) : Runs i s (conclude s (oraLogic f arg s)) := by
  rcases operand_cases f arg s with ⟨⟨m, h⟩, hn⟩ | ⟨hf, hx, h⟩
  · rw [oraLogic_of_operand h]; exact runs_register _ hr hm (not_outOfRangeSource_operand ha hn)
  · rw [oraLogic_of_error h]; exact runs_operandOutOfRange hm hf hx ha

theorem runs_eor (f : Form) (arg : Half) (hr : i.regWritten = some .a) (hm : i.writesMem = false)
    (ha : i.address = operandAddress f arg) : Runs i s (conclude s (eorLogic f arg s)) := by
  rcases operand_cases f arg s with ⟨⟨m, h⟩, hn⟩ | ⟨hf, hx, h⟩
  · rw [eorLogic_of_operand h]; exact runs_register _ hr hm (not_outOfRangeSource_operand ha hn)
  · rw [eorLogic_of_error h]; exact runs_operandOutOfRange hm hf hx ha

theorem runs_inc (f : Form) (arg : Half) (hr : i.regWritten = none) (hm : i.writesMem = true) (hc : i.writesC = false)
    (hv : i.writesV = false) (ha : i.address = some (f, arg)) (hi : i.isInc = true) (hd : i.isDec = false)
    (hw : ∀ a v, i ≠ .memwr a v) : Runs i s (conclude s (inc f arg s)) := by
  have hw' : ∀ a v, i = .memwr a v → v.toNat ≤ 0xFF := fun a v h => absurd h (hw a v)
  rcases inc_cases f arg s with ⟨a, hea, hlt, hne, h⟩ | ⟨he, ⟨a, hea, hlt, hb⟩, h⟩ | ⟨hx, h⟩ <;> rw [h]
  · refine ⟨_, rfl, .memory f arg a _ ha hea hlt hr hm hc hv (not_memoryOverflowSource ha hw' fun a' hea' _ he => ?_)⟩
    rw [hea] at hea'
    cases hea'
    rw [he] at hne
    simp only [hd, hi, true_and, Bool.false_eq_true, false_and, or_false]
    exact hne.resolve_right (fun h => by cases h)
  · exact ⟨_, rfl, .memoryOverflow (.inr ⟨he, f, arg, a, ha, hea, hlt, .inl ⟨hi, hb⟩⟩)⟩
  · exact runs_outOfRange ha hx hw'

theorem runs_dec (f : Form) (arg : Half) (hr : i.regWritten = none) (hm : i.writesMem = true) (hc : i.writesC = false)
    (hv : i.writesV = false) (ha : i.address = some (f, arg)) (hi : i.isDec = true) (hd : i.isInc = false)
    (hw : ∀ a v, i ≠ .memwr a v) : Runs i s (conclude s (dec f arg s)) := by
  have hw' : ∀ a v, i = .memwr a v → v.toNat ≤ 0xFF := fun a v h => absurd h (hw a v)
  rcases dec_cases f arg s with ⟨a, hea, hlt, hne, h⟩ | ⟨he, ⟨a, hea, hlt, hb⟩, h⟩ | ⟨hx, h⟩ <;> rw [h]
  · refine ⟨_, rfl, .memory f arg a _ ha hea hlt hr hm hc hv (not_memoryOverflowSource ha hw' fun a' hea' _ he => ?_)⟩
    rw [hea] at hea'
    cases hea'
    rw [he] at hne
    simp only [hd, hi, true_and, Bool.false_eq_true, false_and, false_or]
    exact hne.resolve_right (fun h => by cases h)
  · exact ⟨_, rfl, .memoryOverflow (.inr ⟨he, f, arg, a, ha, hea, hlt, .inr ⟨hi, hb⟩⟩)⟩
  · exact runs_outOfRange ha hx hw'

theorem runs_shift (out : Bool) {res : Nat} (h : res ≤ 255) (hr : i.regWritten = some .a) (hm : i.writesMem = false)
    (hc : i.writesC = true) (ha : i.address = none) : Runs i s (conclude s (shift out res s)) := by
  rw [shift_ok out h]
  exact ⟨_, rfl, .register .a _ out s.v hr hm (fun h => by simp [h] at hc) (fun _ => rfl) (not_outOfRangeSource ha)⟩

theorem runs_memrd (arg : Half) : Runs (.memrd arg) s (execMemrd arg s) := by
  unfold execMemrd
  by_cases h : arg.toNat < s.cfg.memSize
  · rw [memRead_ok h]; exact ⟨_, rfl, .data arg rfl h⟩
  · rw [memRead_outOfRange (by omega)]
    exact runs_outOfRange (f := .abs) (arg := arg) rfl (fun a ha => by cases ha; omega) (fun _ _ h => by cases h)

theorem runs_memwr (arg val : Half) : Runs (.memwr arg val) s (execMemwr arg val s) := by
  unfold execMemwr
  cases h : memWrite s arg.toNat val.toNat with
  | ok t =>
    obtain ⟨_, _, ha, rfl⟩ := memWrite_eq_ok h
    refine ⟨_, rfl, .memory .abs arg _ _ rfl rfl ha rfl rfl rfl rfl ?_⟩
    refine not_memoryOverflowSource (f := .abs) (arg := arg) rfl (fun a v h => ?_) (fun _ _ _ _ h => ?_)
    · cases h; omega
    · rcases h with ⟨h, _⟩ | ⟨h, _⟩ <;> cases h
  | error e =>
    rcases memWrite_eq_error h with ⟨hv, rfl⟩ | ⟨_, hv, ha, rfl⟩
    · exact ⟨_, rfl, .memoryOverflow (.inl ⟨arg, val, rfl, by omega⟩)⟩
    · exact runs_outOfRange (f := .abs) (arg := arg) rfl (fun a h => by cases h; exact ha)
        (fun a v h => by cases h; omega)

/-- Every command ends in a next state, and in one of these. -/
theorem exec_runs (i : Instr) (s : State) : Runs i s (exec i s) := by
  cases i with
  | memrd a => exact runs_memrd a
  | memwr a b => exact runs_memwr a b
  | ldaImm a => exact runs_load .a .imm a rfl rfl rfl (fun _ h => ⟨a, h, by simp⟩)
  | ldaAbs a => exact runs_load .a .abs a rfl rfl rfl (fun h => by cases h)
  | ldaAbsIdx a b => exact runs_load .a (.absIdx a) b rfl rfl rfl (fun h => by cases h)
  | ldaIndX a => exact runs_load .a .indX a rfl rfl rfl (fun h => by cases h)
  | ldaIndY a => exact runs_load .a .indY a rfl rfl rfl (fun h => by cases h)
  | ldxImm a => exact runs_load .x .imm a rfl rfl rfl (fun _ h => ⟨a, h, by simp⟩)
  | ldxAbs a => exact runs_load .x .abs a rfl rfl rfl (fun h => by cases h)
  | ldxAbsIdx a b => exact runs_load .x (.absIdx a) b rfl rfl rfl (fun h => by cases h)
  | ldxIndX a => exact runs_load .x .indX a rfl rfl rfl (fun h => by cases h)
  | ldxIndY a => exact runs_load .x .indY a rfl rfl rfl (fun h => by cases h)
  | ldyImm a => exact runs_load .y .imm a rfl rfl rfl (fun _ h => ⟨a, h, by simp⟩)
  | ldyAbs a => exact runs_load .y .abs a rfl rfl rfl (fun h => by cases h)
  | ldyAbsIdx a b => exact runs_load .y (.absIdx a) b rfl rfl rfl (fun h => by cases h)
  | ldyIndX a => exact runs_load .y .indX a rfl rfl rfl (fun h => by cases h)
  | ldyIndY a => exact runs_load .y .indY a rfl rfl rfl (fun h => by cases h)
  | staImm a => exact runs_store .a .imm a rfl rfl rfl rfl rfl rfl rfl nofun
  | staAbs a => exact runs_store .a .abs a rfl rfl rfl rfl rfl rfl rfl nofun
  | staAbsIdx a b => exact runs_store .a (.absIdx a) b rfl rfl rfl rfl rfl rfl rfl nofun
  | staIndX a => exact runs_store .a .indX a rfl rfl rfl rfl rfl rfl rfl nofun
  | staIndY a => exact runs_store .a .indY a rfl rfl rfl rfl rfl rfl rfl nofun
  | stxImm a => exact runs_store .x .imm a rfl rfl rfl rfl rfl rfl rfl nofun
  | stxAbs a => exact runs_store .x .abs a rfl rfl rfl rfl rfl rfl rfl nofun
  | stxAbsIdx a b => exact runs_store .x (.absIdx a) b rfl rfl rfl rfl rfl rfl rfl nofun
  | styImm a => exact runs_store .y .imm a rfl rfl rfl rfl rfl rfl rfl nofun
  | styAbs a => exact runs_store .y .abs a rfl rfl rfl rfl rfl rfl rfl nofun
  | styAbsIdx a b => exact runs_store .y (.absIdx a) b rfl rfl rfl rfl rfl rfl rfl nofun
  | adcImm a => exact runs_adc .imm (a.setWidth 16) rfl rfl rfl rfl rfl
  | adcAbs a => exact runs_adc .abs a rfl rfl rfl rfl rfl
  | adcAbsIdx a b => exact runs_adc (.absIdx a) b rfl rfl rfl rfl rfl
  | adcIndX a => exact runs_adc .indX a rfl rfl rfl rfl rfl
  | adcIndY a => exact runs_adc .indY a rfl rfl rfl rfl rfl
  | sbcImm a => exact runs_sbc .imm (a.setWidth 16) rfl rfl rfl rfl rfl
  | sbcAbs a => exact runs_sbc .abs a rfl rfl rfl rfl rfl
  | sbcAbsIdx a b => exact runs_sbc (.absIdx a) b rfl rfl rfl rfl rfl
  | sbcIndX a => exact runs_sbc .indX a rfl rfl rfl rfl rfl
  | sbcIndY a => exact runs_sbc .indY a rfl rfl rfl rfl rfl
  | incImm a => exact runs_inc .imm a rfl rfl rfl rfl rfl rfl rfl nofun
  | incAbs a => exact runs_inc .abs a rfl rfl rfl rfl rfl rfl rfl nofun
  | incAbsIdx a b => exact runs_inc (.absIdx a) b rfl rfl rfl rfl rfl rfl rfl nofun
  | incIndX a => exact runs_inc .indX a rfl rfl rfl rfl rfl rfl rfl nofun
  | incIndY a => exact runs_inc .indY a rfl rfl rfl rfl rfl rfl rfl nofun
  | decImm a => exact runs_dec .imm a rfl rfl rfl rfl rfl rfl rfl nofun
  | decAbs a => exact runs_dec .abs a rfl rfl rfl rfl rfl rfl rfl nofun
  | decAbsIdx a b => exact runs_dec (.absIdx a) b rfl rfl rfl rfl rfl rfl rfl nofun
  | decIndX a => exact runs_dec .indX a rfl rfl rfl rfl rfl rfl rfl nofun
  | decIndY a => exact runs_dec .indY a rfl rfl rfl rfl rfl rfl rfl nofun
  | clc => exact ⟨_, rfl, .carry _ rfl rfl rfl rfl rfl⟩
  | sec => exact ⟨_, rfl, .carry _ rfl rfl rfl rfl rfl⟩
  | andImm a => exact runs_and .imm (a.setWidth 16) rfl rfl rfl
  | andAbs a => exact runs_and .abs a rfl rfl rfl
  | andAbsIdx a b => exact runs_and (.absIdx a) b rfl rfl rfl
  | andIndX a => exact runs_and .indX a rfl rfl rfl
  | andIndY a => exact runs_and .indY a rfl rfl rfl
  | oraImm a => exact runs_ora .imm (a.setWidth 16) rfl rfl rfl
  | oraAbs a => exact runs_ora .abs a rfl rfl rfl
  | oraAbsIdx a b => exact runs_ora (.absIdx a) b rfl rfl rfl
  | oraIndX a => exact runs_ora .indX a rfl rfl rfl
  | oraIndY a => exact runs_ora .indY a rfl rfl rfl
  | eorImm a => exact runs_eor .imm (a.setWidth 16) rfl rfl rfl
  | eorAbs a => exact runs_eor .abs a rfl rfl rfl
  | eorAbsIdx a b => exact runs_eor (.absIdx a) b rfl rfl rfl
  | eorIndX a => exact runs_eor .indX a rfl rfl rfl
  | eorIndY a => exact runs_eor .indY a rfl rfl rfl
  | aslAcc => exact runs_shift _ (aslResult_eq s.a).1 rfl rfl rfl rfl
  | lsrAcc => exact runs_shift _ (lsrResult_eq s.a).1 rfl rfl rfl rfl
  | rolAcc => exact runs_shift _ (rolResult_eq s.a s.c).1 rfl rfl rfl rfl
  | rorAcc => exact runs_shift _ (rorResult_eq s.a s.c).1 rfl rfl rfl rfl

/-- What a next state of a command is. -/
theorem effect_of_exec {t : State} (h : exec i s = .next t) : Effect i s t := by
  obtain ⟨u, hu, he⟩ := exec_runs i s
  rw [hu] at h
  cases h
  exact he

/-- All a step can do: idle, run a command, answer an illegal word, or perform one of the two resets. -/
theorem step_cases {t : State} (h : step s = .next t) : s.cfg.wellFormed = true ∧
    ((s.events = [] ∧ t = s) ∨
      ∃ es, (∃ w i, s.events = .command w :: es ∧ decode s.cfg w = some i ∧ exec i (s.putEvents es) = .next t) ∨
        (∃ w, s.events = .command w :: es ∧ decode s.cfg w = none ∧
          t = (s.putEvents es).answer Err.illegalCommand.code) ∨
        (s.events = .resetCore :: es ∧ t = resetCore (s.putEvents es)) ∨
        (∃ cfg, s.events = .resetAll cfg :: es ∧ cfg.wellFormed = true ∧ t = resetAll cfg (s.putEvents es))) := by
  unfold step at h
  split_ifs at h with hw
  refine ⟨hw, ?_⟩
  unfold takeEvent at h
  split at h
  · rename_i he
    cases h
    exact .inl ⟨he, rfl⟩
  · rename_i e es he
    refine .inr ⟨es, ?_⟩
    cases e with
    | command w =>
      cases hd : decode s.cfg w with
      | some i =>
        refine .inl ⟨w, i, he, hd, ?_⟩
        have hd' : decode (s.putEvents es).cfg w = some i := hd
        simpa only [runEvent, runCommand, hd'] using h
      | none =>
        refine .inr (.inl ⟨w, he, hd, ?_⟩)
        have hd' : decode (s.putEvents es).cfg w = none := hd
        simp only [runEvent, runCommand, hd'] at h
        cases h
        rfl
    | resetCore =>
      cases h
      exact .inr (.inr (.inl ⟨he, rfl⟩))
    | resetAll cfg =>
      simp only [runEvent] at h
      split_ifs at h with hc
      cases h
      exact .inr (.inr (.inr ⟨cfg, he, hc, rfl⟩))

/-- A step on a waiting host action. -/
theorem step_event {e : HostEvent} {es : List HostEvent} (hw : s.cfg.wellFormed = true) (he : s.events = e :: es) :
    step s = runEvent e (s.putEvents es) := by
  unfold step takeEvent
  rw [if_pos hw, he]

/-- A waiting command word, whatever it is and whatever the block answered before, is taken and answered (R186, R189). -/
theorem step_command {w : CommandWord} {es : List HostEvent} (hw : s.cfg.wellFormed = true)
    (he : s.events = .command w :: es) :
    ∃ t, step s = .next t ∧ t.events = es ∧ t.cfg = s.cfg ∧ t.resp.isSome = true := by
  rw [step_event hw he, runEvent, runCommand]
  cases decode (s.putEvents es).cfg w with
  | none => exact ⟨_, rfl, rfl, rfl, rfl⟩
  | some i =>
    obtain ⟨t, ht, h⟩ := exec_runs i (s.putEvents es)
    refine ⟨t, ht, ?_⟩
    cases h with
    | register r => cases r <;> exact ⟨rfl, rfl, rfl⟩
    | _ => exact ⟨rfl, rfl, rfl⟩

/-- A run of one step more. -/
theorem core_run_succ (k : Nat) {t : State} (h : step s = .next t) : core.run (k + 1) s = core.run k t := by
  have run_succ : ∀ (M : Host.Core) (s t : M.State), M.step s = .next t → M.run (k + 1) s = M.run k t := by
    intro M s t h
    rw [Host.Core.run, h]
  exact run_succ core s t h

end Sys2Proof.Machine
end

