-- ==== Sys2Proof/Laws/PerInstr.lean ====
section
/-!
SUPPORT. The two families made per instruction.  RoundTrip: decoding an admitted instruction's word gives it back.
MatchesRow: an instruction's word matches a row of spec/opcode_table.json with its parameter (30_encoding.md R64).
-/

namespace Sys2Proof.Laws

/-- The round trip of one instruction, in every configuration that admits it. -/
def RoundTrip.Statement (i : Instr) : Prop :=
  ∀ cfg : Config, i.wellFormed cfg = true → decode cfg (encode i) = some i

/-- The instruction's word is one of a row with the instruction's parameter. -/
def MatchesRow.Statement (i : Instr) : Prop :=
  ∃ r ∈ opcodeTable, r.param = i.admission ∧ r.holds (encode i) = true

/-- A row found in the table, and the fields of the word under its mask. -/
theorem MatchesRow.intro {i : Instr} {f : Fields} (r : TableRow) (hr : r ∈ opcodeTable) (hp : r.param = i.admission)
    (he : encode i = pack f)
    (h : (⟨f.op &&& (fieldsOf r.mask).op, f.mode &&& (fieldsOf r.mask).mode, f.reg &&& (fieldsOf r.mask).reg,
      f.idx &&& (fieldsOf r.mask).idx, f.rsv &&& (fieldsOf r.mask).rsv, f.arg &&& (fieldsOf r.mask).arg,
      f.val &&& (fieldsOf r.mask).val⟩ : Fields) = fieldsOf r.pattern) : MatchesRow.Statement i :=
  ⟨r, hr, hp, by rw [TableRow.holds, he, beq_iff_eq]; exact pack_and_eq h⟩

theorem RoundTrip.memrd (arg : Half) : RoundTrip.Statement (.memrd arg) := fun _ hw => decode_pack rfl hw
theorem RoundTrip.memwr (arg : Half) (val : Half) : RoundTrip.Statement (.memwr arg val) := fun _ hw => decode_pack rfl hw
theorem RoundTrip.ldaImm (arg : Half) : RoundTrip.Statement (.ldaImm arg) := fun _ hw => decode_pack rfl hw
theorem RoundTrip.ldaAbs (arg : Half) : RoundTrip.Statement (.ldaAbs arg) := fun _ hw => decode_pack rfl hw
theorem RoundTrip.ldaAbsIdx (idx : Idx) (arg : Half) : RoundTrip.Statement (.ldaAbsIdx idx arg) := fun _ hw => decode_pack (by cases idx <;> rfl) hw
theorem RoundTrip.ldaIndX (arg : Half) : RoundTrip.Statement (.ldaIndX arg) := fun _ hw => decode_pack rfl hw
theorem RoundTrip.ldaIndY (arg : Half) : RoundTrip.Statement (.ldaIndY arg) := fun _ hw => decode_pack rfl hw
theorem RoundTrip.ldxImm (arg : Half) : RoundTrip.Statement (.ldxImm arg) := fun _ hw => decode_pack rfl hw
theorem RoundTrip.ldxAbs (arg : Half) : RoundTrip.Statement (.ldxAbs arg) := fun _ hw => decode_pack rfl hw
theorem RoundTrip.ldxAbsIdx (idx : Idx) (arg : Half) : RoundTrip.Statement (.ldxAbsIdx idx arg) := fun _ hw => decode_pack (by cases idx <;> rfl) hw
theorem RoundTrip.ldxIndX (arg : Half) : RoundTrip.Statement (.ldxIndX arg) := fun _ hw => decode_pack rfl hw
theorem RoundTrip.ldxIndY (arg : Half) : RoundTrip.Statement (.ldxIndY arg) := fun _ hw => decode_pack rfl hw
theorem RoundTrip.ldyImm (arg : Half) : RoundTrip.Statement (.ldyImm arg) := fun _ hw => decode_pack rfl hw
theorem RoundTrip.ldyAbs (arg : Half) : RoundTrip.Statement (.ldyAbs arg) := fun _ hw => decode_pack rfl hw
theorem RoundTrip.ldyAbsIdx (idx : Idx) (arg : Half) : RoundTrip.Statement (.ldyAbsIdx idx arg) := fun _ hw => decode_pack (by cases idx <;> rfl) hw
theorem RoundTrip.ldyIndX (arg : Half) : RoundTrip.Statement (.ldyIndX arg) := fun _ hw => decode_pack rfl hw
theorem RoundTrip.ldyIndY (arg : Half) : RoundTrip.Statement (.ldyIndY arg) := fun _ hw => decode_pack rfl hw
theorem RoundTrip.staImm (arg : Half) : RoundTrip.Statement (.staImm arg) := fun _ hw => decode_pack rfl hw
theorem RoundTrip.staAbs (arg : Half) : RoundTrip.Statement (.staAbs arg) := fun _ hw => decode_pack rfl hw
theorem RoundTrip.staAbsIdx (idx : Idx) (arg : Half) : RoundTrip.Statement (.staAbsIdx idx arg) := fun _ hw => decode_pack (by cases idx <;> rfl) hw
theorem RoundTrip.staIndX (arg : Half) : RoundTrip.Statement (.staIndX arg) := fun _ hw => decode_pack rfl hw
theorem RoundTrip.staIndY (arg : Half) : RoundTrip.Statement (.staIndY arg) := fun _ hw => decode_pack rfl hw
theorem RoundTrip.stxImm (arg : Half) : RoundTrip.Statement (.stxImm arg) := fun _ hw => decode_pack rfl hw
theorem RoundTrip.stxAbs (arg : Half) : RoundTrip.Statement (.stxAbs arg) := fun _ hw => decode_pack rfl hw
theorem RoundTrip.stxAbsIdx (idx : Idx) (arg : Half) : RoundTrip.Statement (.stxAbsIdx idx arg) := fun _ hw => decode_pack (by cases idx <;> rfl) hw
theorem RoundTrip.styImm (arg : Half) : RoundTrip.Statement (.styImm arg) := fun _ hw => decode_pack rfl hw
theorem RoundTrip.styAbs (arg : Half) : RoundTrip.Statement (.styAbs arg) := fun _ hw => decode_pack rfl hw
theorem RoundTrip.styAbsIdx (idx : Idx) (arg : Half) : RoundTrip.Statement (.styAbsIdx idx arg) := fun _ hw => decode_pack (by cases idx <;> rfl) hw
theorem RoundTrip.adcImm (m : Byte) : RoundTrip.Statement (.adcImm m) := fun _ hw =>
  decode_pack (decodeFields_byteLiteral rfl) hw
theorem RoundTrip.adcAbs (arg : Half) : RoundTrip.Statement (.adcAbs arg) := fun _ hw => decode_pack rfl hw
theorem RoundTrip.adcAbsIdx (idx : Idx) (arg : Half) : RoundTrip.Statement (.adcAbsIdx idx arg) := fun _ hw => decode_pack (by cases idx <;> rfl) hw
theorem RoundTrip.adcIndX (arg : Half) : RoundTrip.Statement (.adcIndX arg) := fun _ hw => decode_pack rfl hw
theorem RoundTrip.adcIndY (arg : Half) : RoundTrip.Statement (.adcIndY arg) := fun _ hw => decode_pack rfl hw
theorem RoundTrip.sbcImm (m : Byte) : RoundTrip.Statement (.sbcImm m) := fun _ hw =>
  decode_pack (decodeFields_byteLiteral rfl) hw
theorem RoundTrip.sbcAbs (arg : Half) : RoundTrip.Statement (.sbcAbs arg) := fun _ hw => decode_pack rfl hw
theorem RoundTrip.sbcAbsIdx (idx : Idx) (arg : Half) : RoundTrip.Statement (.sbcAbsIdx idx arg) := fun _ hw => decode_pack (by cases idx <;> rfl) hw
theorem RoundTrip.sbcIndX (arg : Half) : RoundTrip.Statement (.sbcIndX arg) := fun _ hw => decode_pack rfl hw
theorem RoundTrip.sbcIndY (arg : Half) : RoundTrip.Statement (.sbcIndY arg) := fun _ hw => decode_pack rfl hw
theorem RoundTrip.incImm (arg : Half) : RoundTrip.Statement (.incImm arg) := fun _ hw => decode_pack rfl hw
theorem RoundTrip.incAbs (arg : Half) : RoundTrip.Statement (.incAbs arg) := fun _ hw => decode_pack rfl hw
theorem RoundTrip.incAbsIdx (idx : Idx) (arg : Half) : RoundTrip.Statement (.incAbsIdx idx arg) := fun _ hw => decode_pack (by cases idx <;> rfl) hw
theorem RoundTrip.incIndX (arg : Half) : RoundTrip.Statement (.incIndX arg) := fun _ hw => decode_pack rfl hw
theorem RoundTrip.incIndY (arg : Half) : RoundTrip.Statement (.incIndY arg) := fun _ hw => decode_pack rfl hw
theorem RoundTrip.decImm (arg : Half) : RoundTrip.Statement (.decImm arg) := fun _ hw => decode_pack rfl hw
theorem RoundTrip.decAbs (arg : Half) : RoundTrip.Statement (.decAbs arg) := fun _ hw => decode_pack rfl hw
theorem RoundTrip.decAbsIdx (idx : Idx) (arg : Half) : RoundTrip.Statement (.decAbsIdx idx arg) := fun _ hw => decode_pack (by cases idx <;> rfl) hw
theorem RoundTrip.decIndX (arg : Half) : RoundTrip.Statement (.decIndX arg) := fun _ hw => decode_pack rfl hw
theorem RoundTrip.decIndY (arg : Half) : RoundTrip.Statement (.decIndY arg) := fun _ hw => decode_pack rfl hw
theorem RoundTrip.clc : RoundTrip.Statement (.clc) := fun _ hw => decode_pack rfl hw
theorem RoundTrip.sec : RoundTrip.Statement (.sec) := fun _ hw => decode_pack rfl hw
theorem RoundTrip.andImm (m : Byte) : RoundTrip.Statement (.andImm m) := fun _ hw =>
  decode_pack (decodeFields_byteLiteral rfl) hw
theorem RoundTrip.andAbs (arg : Half) : RoundTrip.Statement (.andAbs arg) := fun _ hw => decode_pack rfl hw
theorem RoundTrip.andAbsIdx (idx : Idx) (arg : Half) : RoundTrip.Statement (.andAbsIdx idx arg) := fun _ hw => decode_pack (by cases idx <;> rfl) hw
theorem RoundTrip.andIndX (arg : Half) : RoundTrip.Statement (.andIndX arg) := fun _ hw => decode_pack rfl hw
theorem RoundTrip.andIndY (arg : Half) : RoundTrip.Statement (.andIndY arg) := fun _ hw => decode_pack rfl hw
theorem RoundTrip.oraImm (m : Byte) : RoundTrip.Statement (.oraImm m) := fun _ hw =>
  decode_pack (decodeFields_byteLiteral rfl) hw
theorem RoundTrip.oraAbs (arg : Half) : RoundTrip.Statement (.oraAbs arg) := fun _ hw => decode_pack rfl hw
theorem RoundTrip.oraAbsIdx (idx : Idx) (arg : Half) : RoundTrip.Statement (.oraAbsIdx idx arg) := fun _ hw => decode_pack (by cases idx <;> rfl) hw
theorem RoundTrip.oraIndX (arg : Half) : RoundTrip.Statement (.oraIndX arg) := fun _ hw => decode_pack rfl hw
theorem RoundTrip.oraIndY (arg : Half) : RoundTrip.Statement (.oraIndY arg) := fun _ hw => decode_pack rfl hw
theorem RoundTrip.eorImm (m : Byte) : RoundTrip.Statement (.eorImm m) := fun _ hw =>
  decode_pack (decodeFields_byteLiteral rfl) hw
theorem RoundTrip.eorAbs (arg : Half) : RoundTrip.Statement (.eorAbs arg) := fun _ hw => decode_pack rfl hw
theorem RoundTrip.eorAbsIdx (idx : Idx) (arg : Half) : RoundTrip.Statement (.eorAbsIdx idx arg) := fun _ hw => decode_pack (by cases idx <;> rfl) hw
theorem RoundTrip.eorIndX (arg : Half) : RoundTrip.Statement (.eorIndX arg) := fun _ hw => decode_pack rfl hw
theorem RoundTrip.eorIndY (arg : Half) : RoundTrip.Statement (.eorIndY arg) := fun _ hw => decode_pack rfl hw
theorem RoundTrip.aslAcc : RoundTrip.Statement (.aslAcc) := fun _ hw => decode_pack rfl hw
theorem RoundTrip.lsrAcc : RoundTrip.Statement (.lsrAcc) := fun _ hw => decode_pack rfl hw
theorem RoundTrip.rolAcc : RoundTrip.Statement (.rolAcc) := fun _ hw => decode_pack rfl hw
theorem RoundTrip.rorAcc : RoundTrip.Statement (.rorAcc) := fun _ hw => decode_pack rfl hw

theorem MatchesRow.memrd (arg : Half) : MatchesRow.Statement (.memrd arg) :=
  MatchesRow.intro ⟨0x202000000000, 0xFFFF0000FFFF, .always⟩ (by decide) rfl rfl (by simp [fieldsOf])
theorem MatchesRow.memwr (arg : Half) (val : Half) : MatchesRow.Statement (.memwr arg val) :=
  MatchesRow.intro ⟨0x212000000000, 0xFFFF00000000, .always⟩ (by decide) rfl rfl (by simp [fieldsOf])
theorem MatchesRow.ldaImm (arg : Half) : MatchesRow.Statement (.ldaImm arg) :=
  MatchesRow.intro ⟨0x011000000000, 0xFFFF0000FFFF, .always⟩ (by decide) rfl rfl (by simp [fieldsOf])
theorem MatchesRow.ldaAbs (arg : Half) : MatchesRow.Statement (.ldaAbs arg) :=
  MatchesRow.intro ⟨0x012000000000, 0xFFFF0000FFFF, .always⟩ (by decide) rfl rfl (by simp [fieldsOf])
theorem MatchesRow.ldaAbsIdx (idx : Idx) (arg : Half) : MatchesRow.Statement (.ldaAbsIdx idx arg) :=
  MatchesRow.intro ⟨0x013000000000, 0xFFFD0000FFFF, .always⟩ (by decide) rfl rfl (by cases idx <;> simp [fieldsOf, Idx.bit])
theorem MatchesRow.ldaIndX (arg : Half) : MatchesRow.Statement (.ldaIndX arg) :=
  MatchesRow.intro ⟨0x014000000000, 0xFFFF0000FFFF, .always⟩ (by decide) rfl rfl (by simp [fieldsOf])
theorem MatchesRow.ldaIndY (arg : Half) : MatchesRow.Statement (.ldaIndY arg) :=
  MatchesRow.intro ⟨0x015000000000, 0xFFFF0000FFFF, .always⟩ (by decide) rfl rfl (by simp [fieldsOf])
theorem MatchesRow.ldxImm (arg : Half) : MatchesRow.Statement (.ldxImm arg) :=
  MatchesRow.intro ⟨0x011400000000, 0xFFFF0000FFFF, .always⟩ (by decide) rfl rfl (by simp [fieldsOf])
theorem MatchesRow.ldxAbs (arg : Half) : MatchesRow.Statement (.ldxAbs arg) :=
  MatchesRow.intro ⟨0x012400000000, 0xFFFF0000FFFF, .always⟩ (by decide) rfl rfl (by simp [fieldsOf])
theorem MatchesRow.ldxAbsIdx (idx : Idx) (arg : Half) : MatchesRow.Statement (.ldxAbsIdx idx arg) :=
  MatchesRow.intro ⟨0x013400000000, 0xFFFD0000FFFF, .always⟩ (by decide) rfl rfl (by cases idx <;> simp [fieldsOf, Idx.bit])
theorem MatchesRow.ldxIndX (arg : Half) : MatchesRow.Statement (.ldxIndX arg) :=
  MatchesRow.intro ⟨0x014400000000, 0xFFFF0000FFFF, .always⟩ (by decide) rfl rfl (by simp [fieldsOf])
theorem MatchesRow.ldxIndY (arg : Half) : MatchesRow.Statement (.ldxIndY arg) :=
  MatchesRow.intro ⟨0x015400000000, 0xFFFF0000FFFF, .always⟩ (by decide) rfl rfl (by simp [fieldsOf])
theorem MatchesRow.ldyImm (arg : Half) : MatchesRow.Statement (.ldyImm arg) :=
  MatchesRow.intro ⟨0x011800000000, 0xFFFF0000FFFF, .always⟩ (by decide) rfl rfl (by simp [fieldsOf])
theorem MatchesRow.ldyAbs (arg : Half) : MatchesRow.Statement (.ldyAbs arg) :=
  MatchesRow.intro ⟨0x012800000000, 0xFFFF0000FFFF, .always⟩ (by decide) rfl rfl (by simp [fieldsOf])
theorem MatchesRow.ldyAbsIdx (idx : Idx) (arg : Half) : MatchesRow.Statement (.ldyAbsIdx idx arg) :=
  MatchesRow.intro ⟨0x013800000000, 0xFFFD0000FFFF, .always⟩ (by decide) rfl rfl (by cases idx <;> simp [fieldsOf, Idx.bit])
theorem MatchesRow.ldyIndX (arg : Half) : MatchesRow.Statement (.ldyIndX arg) :=
  MatchesRow.intro ⟨0x014800000000, 0xFFFF0000FFFF, .always⟩ (by decide) rfl rfl (by simp [fieldsOf])
theorem MatchesRow.ldyIndY (arg : Half) : MatchesRow.Statement (.ldyIndY arg) :=
  MatchesRow.intro ⟨0x015800000000, 0xFFFF0000FFFF, .always⟩ (by decide) rfl rfl (by simp [fieldsOf])
theorem MatchesRow.staImm (arg : Half) : MatchesRow.Statement (.staImm arg) :=
  MatchesRow.intro ⟨0x021000000000, 0xFFFF0000FFFF, .always⟩ (by decide) rfl rfl (by simp [fieldsOf])
theorem MatchesRow.staAbs (arg : Half) : MatchesRow.Statement (.staAbs arg) :=
  MatchesRow.intro ⟨0x022000000000, 0xFFFF0000FFFF, .always⟩ (by decide) rfl rfl (by simp [fieldsOf])
theorem MatchesRow.staAbsIdx (idx : Idx) (arg : Half) : MatchesRow.Statement (.staAbsIdx idx arg) :=
  MatchesRow.intro ⟨0x023000000000, 0xFFFD0000FFFF, .always⟩ (by decide) rfl rfl (by cases idx <;> simp [fieldsOf, Idx.bit])
theorem MatchesRow.staIndX (arg : Half) : MatchesRow.Statement (.staIndX arg) :=
  MatchesRow.intro ⟨0x024000000000, 0xFFFF0000FFFF, .always⟩ (by decide) rfl rfl (by simp [fieldsOf])
theorem MatchesRow.staIndY (arg : Half) : MatchesRow.Statement (.staIndY arg) :=
  MatchesRow.intro ⟨0x025000000000, 0xFFFF0000FFFF, .always⟩ (by decide) rfl rfl (by simp [fieldsOf])
theorem MatchesRow.stxImm (arg : Half) : MatchesRow.Statement (.stxImm arg) :=
  MatchesRow.intro ⟨0x021400000000, 0xFFFF0000FFFF, .always⟩ (by decide) rfl rfl (by simp [fieldsOf])
theorem MatchesRow.stxAbs (arg : Half) : MatchesRow.Statement (.stxAbs arg) :=
  MatchesRow.intro ⟨0x022400000000, 0xFFFF0000FFFF, .always⟩ (by decide) rfl rfl (by simp [fieldsOf])
theorem MatchesRow.stxAbsIdx (idx : Idx) (arg : Half) : MatchesRow.Statement (.stxAbsIdx idx arg) :=
  MatchesRow.intro ⟨0x023400000000, 0xFFFD0000FFFF, .always⟩ (by decide) rfl rfl (by cases idx <;> simp [fieldsOf, Idx.bit])
theorem MatchesRow.styImm (arg : Half) : MatchesRow.Statement (.styImm arg) :=
  MatchesRow.intro ⟨0x021800000000, 0xFFFF0000FFFF, .always⟩ (by decide) rfl rfl (by simp [fieldsOf])
theorem MatchesRow.styAbs (arg : Half) : MatchesRow.Statement (.styAbs arg) :=
  MatchesRow.intro ⟨0x022800000000, 0xFFFF0000FFFF, .always⟩ (by decide) rfl rfl (by simp [fieldsOf])
theorem MatchesRow.styAbsIdx (idx : Idx) (arg : Half) : MatchesRow.Statement (.styAbsIdx idx arg) :=
  MatchesRow.intro ⟨0x023800000000, 0xFFFD0000FFFF, .always⟩ (by decide) rfl rfl (by cases idx <;> simp [fieldsOf, Idx.bit])
theorem MatchesRow.adcImm (m : Byte) : MatchesRow.Statement (.adcImm m) :=
  MatchesRow.intro ⟨0x031000000000, 0xFFFFFF00FFFF, .always⟩ (by decide) rfl rfl (by simp [fieldsOf])
theorem MatchesRow.adcAbs (arg : Half) : MatchesRow.Statement (.adcAbs arg) :=
  MatchesRow.intro ⟨0x032000000000, 0xFFFF0000FFFF, .always⟩ (by decide) rfl rfl (by simp [fieldsOf])
theorem MatchesRow.adcAbsIdx (idx : Idx) (arg : Half) : MatchesRow.Statement (.adcAbsIdx idx arg) :=
  MatchesRow.intro ⟨0x033000000000, 0xFFFD0000FFFF, .always⟩ (by decide) rfl rfl (by cases idx <;> simp [fieldsOf, Idx.bit])
theorem MatchesRow.adcIndX (arg : Half) : MatchesRow.Statement (.adcIndX arg) :=
  MatchesRow.intro ⟨0x034000000000, 0xFFFF0000FFFF, .always⟩ (by decide) rfl rfl (by simp [fieldsOf])
theorem MatchesRow.adcIndY (arg : Half) : MatchesRow.Statement (.adcIndY arg) :=
  MatchesRow.intro ⟨0x035000000000, 0xFFFF0000FFFF, .always⟩ (by decide) rfl rfl (by simp [fieldsOf])
theorem MatchesRow.sbcImm (m : Byte) : MatchesRow.Statement (.sbcImm m) :=
  MatchesRow.intro ⟨0x041000000000, 0xFFFFFF00FFFF, .always⟩ (by decide) rfl rfl (by simp [fieldsOf])
theorem MatchesRow.sbcAbs (arg : Half) : MatchesRow.Statement (.sbcAbs arg) :=
  MatchesRow.intro ⟨0x042000000000, 0xFFFF0000FFFF, .always⟩ (by decide) rfl rfl (by simp [fieldsOf])
theorem MatchesRow.sbcAbsIdx (idx : Idx) (arg : Half) : MatchesRow.Statement (.sbcAbsIdx idx arg) :=
  MatchesRow.intro ⟨0x043000000000, 0xFFFD0000FFFF, .always⟩ (by decide) rfl rfl (by cases idx <;> simp [fieldsOf, Idx.bit])
theorem MatchesRow.sbcIndX (arg : Half) : MatchesRow.Statement (.sbcIndX arg) :=
  MatchesRow.intro ⟨0x044000000000, 0xFFFF0000FFFF, .always⟩ (by decide) rfl rfl (by simp [fieldsOf])
theorem MatchesRow.sbcIndY (arg : Half) : MatchesRow.Statement (.sbcIndY arg) :=
  MatchesRow.intro ⟨0x045000000000, 0xFFFF0000FFFF, .always⟩ (by decide) rfl rfl (by simp [fieldsOf])
theorem MatchesRow.incImm (arg : Half) : MatchesRow.Statement (.incImm arg) :=
  MatchesRow.intro ⟨0x051000000000, 0xFFFF0000FFFF, .always⟩ (by decide) rfl rfl (by simp [fieldsOf])
theorem MatchesRow.incAbs (arg : Half) : MatchesRow.Statement (.incAbs arg) :=
  MatchesRow.intro ⟨0x052000000000, 0xFFFF0000FFFF, .extIncDec⟩ (by decide) rfl rfl (by simp [fieldsOf])
theorem MatchesRow.incAbsIdx (idx : Idx) (arg : Half) : MatchesRow.Statement (.incAbsIdx idx arg) :=
  MatchesRow.intro ⟨0x053000000000, 0xFFFD0000FFFF, .extIncDec⟩ (by decide) rfl rfl (by cases idx <;> simp [fieldsOf, Idx.bit])
theorem MatchesRow.incIndX (arg : Half) : MatchesRow.Statement (.incIndX arg) :=
  MatchesRow.intro ⟨0x054000000000, 0xFFFF0000FFFF, .extIncDec⟩ (by decide) rfl rfl (by simp [fieldsOf])
theorem MatchesRow.incIndY (arg : Half) : MatchesRow.Statement (.incIndY arg) :=
  MatchesRow.intro ⟨0x055000000000, 0xFFFF0000FFFF, .extIncDec⟩ (by decide) rfl rfl (by simp [fieldsOf])
theorem MatchesRow.decImm (arg : Half) : MatchesRow.Statement (.decImm arg) :=
  MatchesRow.intro ⟨0x061000000000, 0xFFFF0000FFFF, .extIncDec⟩ (by decide) rfl rfl (by simp [fieldsOf])
theorem MatchesRow.decAbs (arg : Half) : MatchesRow.Statement (.decAbs arg) :=
  MatchesRow.intro ⟨0x062000000000, 0xFFFF0000FFFF, .extIncDec⟩ (by decide) rfl rfl (by simp [fieldsOf])
theorem MatchesRow.decAbsIdx (idx : Idx) (arg : Half) : MatchesRow.Statement (.decAbsIdx idx arg) :=
  MatchesRow.intro ⟨0x063000000000, 0xFFFD0000FFFF, .extIncDec⟩ (by decide) rfl rfl (by cases idx <;> simp [fieldsOf, Idx.bit])
theorem MatchesRow.decIndX (arg : Half) : MatchesRow.Statement (.decIndX arg) :=
  MatchesRow.intro ⟨0x064000000000, 0xFFFF0000FFFF, .extIncDec⟩ (by decide) rfl rfl (by simp [fieldsOf])
theorem MatchesRow.decIndY (arg : Half) : MatchesRow.Statement (.decIndY arg) :=
  MatchesRow.intro ⟨0x065000000000, 0xFFFF0000FFFF, .extIncDec⟩ (by decide) rfl rfl (by simp [fieldsOf])
theorem MatchesRow.clc : MatchesRow.Statement (.clc) :=
  MatchesRow.intro ⟨0x070000000000, 0xFFFFFFFFFFFF, .always⟩ (by decide) rfl rfl (by decide)
theorem MatchesRow.sec : MatchesRow.Statement (.sec) :=
  MatchesRow.intro ⟨0x080000000000, 0xFFFFFFFFFFFF, .always⟩ (by decide) rfl rfl (by decide)
theorem MatchesRow.andImm (m : Byte) : MatchesRow.Statement (.andImm m) :=
  MatchesRow.intro ⟨0x101000000000, 0xFFFFFF00FFFF, .extAlu⟩ (by decide) rfl rfl (by simp [fieldsOf])
theorem MatchesRow.andAbs (arg : Half) : MatchesRow.Statement (.andAbs arg) :=
  MatchesRow.intro ⟨0x102000000000, 0xFFFF0000FFFF, .extAlu⟩ (by decide) rfl rfl (by simp [fieldsOf])
theorem MatchesRow.andAbsIdx (idx : Idx) (arg : Half) : MatchesRow.Statement (.andAbsIdx idx arg) :=
  MatchesRow.intro ⟨0x103000000000, 0xFFFD0000FFFF, .extAlu⟩ (by decide) rfl rfl (by cases idx <;> simp [fieldsOf, Idx.bit])
theorem MatchesRow.andIndX (arg : Half) : MatchesRow.Statement (.andIndX arg) :=
  MatchesRow.intro ⟨0x104000000000, 0xFFFF0000FFFF, .extAlu⟩ (by decide) rfl rfl (by simp [fieldsOf])
theorem MatchesRow.andIndY (arg : Half) : MatchesRow.Statement (.andIndY arg) :=
  MatchesRow.intro ⟨0x105000000000, 0xFFFF0000FFFF, .extAlu⟩ (by decide) rfl rfl (by simp [fieldsOf])
theorem MatchesRow.oraImm (m : Byte) : MatchesRow.Statement (.oraImm m) :=
  MatchesRow.intro ⟨0x111000000000, 0xFFFFFF00FFFF, .extAlu⟩ (by decide) rfl rfl (by simp [fieldsOf])
theorem MatchesRow.oraAbs (arg : Half) : MatchesRow.Statement (.oraAbs arg) :=
  MatchesRow.intro ⟨0x112000000000, 0xFFFF0000FFFF, .extAlu⟩ (by decide) rfl rfl (by simp [fieldsOf])
theorem MatchesRow.oraAbsIdx (idx : Idx) (arg : Half) : MatchesRow.Statement (.oraAbsIdx idx arg) :=
  MatchesRow.intro ⟨0x113000000000, 0xFFFD0000FFFF, .extAlu⟩ (by decide) rfl rfl (by cases idx <;> simp [fieldsOf, Idx.bit])
theorem MatchesRow.oraIndX (arg : Half) : MatchesRow.Statement (.oraIndX arg) :=
  MatchesRow.intro ⟨0x114000000000, 0xFFFF0000FFFF, .extAlu⟩ (by decide) rfl rfl (by simp [fieldsOf])
theorem MatchesRow.oraIndY (arg : Half) : MatchesRow.Statement (.oraIndY arg) :=
  MatchesRow.intro ⟨0x115000000000, 0xFFFF0000FFFF, .extAlu⟩ (by decide) rfl rfl (by simp [fieldsOf])
theorem MatchesRow.eorImm (m : Byte) : MatchesRow.Statement (.eorImm m) :=
  MatchesRow.intro ⟨0x121000000000, 0xFFFFFF00FFFF, .extAlu⟩ (by decide) rfl rfl (by simp [fieldsOf])
theorem MatchesRow.eorAbs (arg : Half) : MatchesRow.Statement (.eorAbs arg) :=
  MatchesRow.intro ⟨0x122000000000, 0xFFFF0000FFFF, .extAlu⟩ (by decide) rfl rfl (by simp [fieldsOf])
theorem MatchesRow.eorAbsIdx (idx : Idx) (arg : Half) : MatchesRow.Statement (.eorAbsIdx idx arg) :=
  MatchesRow.intro ⟨0x123000000000, 0xFFFD0000FFFF, .extAlu⟩ (by decide) rfl rfl (by cases idx <;> simp [fieldsOf, Idx.bit])
theorem MatchesRow.eorIndX (arg : Half) : MatchesRow.Statement (.eorIndX arg) :=
  MatchesRow.intro ⟨0x124000000000, 0xFFFF0000FFFF, .extAlu⟩ (by decide) rfl rfl (by simp [fieldsOf])
theorem MatchesRow.eorIndY (arg : Half) : MatchesRow.Statement (.eorIndY arg) :=
  MatchesRow.intro ⟨0x125000000000, 0xFFFF0000FFFF, .extAlu⟩ (by decide) rfl rfl (by simp [fieldsOf])
theorem MatchesRow.aslAcc : MatchesRow.Statement (.aslAcc) :=
  MatchesRow.intro ⟨0x136000000000, 0xFFFFFFFFFFFF, .extAlu⟩ (by decide) rfl rfl (by decide)
theorem MatchesRow.lsrAcc : MatchesRow.Statement (.lsrAcc) :=
  MatchesRow.intro ⟨0x146000000000, 0xFFFFFFFFFFFF, .extAlu⟩ (by decide) rfl rfl (by decide)
theorem MatchesRow.rolAcc : MatchesRow.Statement (.rolAcc) :=
  MatchesRow.intro ⟨0x156000000000, 0xFFFFFFFFFFFF, .extAlu⟩ (by decide) rfl rfl (by decide)
theorem MatchesRow.rorAcc : MatchesRow.Statement (.rorAcc) :=
  MatchesRow.intro ⟨0x166000000000, 0xFFFFFFFFFFFF, .extAlu⟩ (by decide) rfl rfl (by decide)

end Sys2Proof.Laws
end

