-- ==== Sys2Proof/Tests/Slice0.lean ====
section
/-!
SUPPORT. Our own tests.  Words and results are the spec's: the rule examples of 40 to 44, the tables of
95_test_vectors.md, the encodings of 30_encoding.md.  Then one witness for the hypotheses of each statement.
-/

open Sys2Proof Sys2Proof.Machine

namespace Sys2Proof.Tests

/-- What is seen of the state one step leaves when the host issues a word in `s`. -/
def after {α : Type} (w : Nat) (s : State) (f : State → α) : Option α :=
  match step (s.withFetchWord 48 w) with
  | .next t => some (f t)
  | .fault _ => none
  | .refused _ => none

/-- The code on the response port. -/
def errOf (s : State) : Option (BitVec 3) := s.resp.map Response.err

/-! ### Decoding: a word for every constructor (30_encoding.md R50 to R57) -/

theorem test_decode_host :
    ∀ p ∈ [((0x202087650000 : CommandWord), Instr.memrd 0x8765), (0x2120120300FE, .memwr 0x1203 0x00FE)],
    decode Config.default p.1 = some p.2 := by decide

theorem test_decode_load :
    ∀ p ∈ [((0x011087650000 : CommandWord), Instr.ldaImm 0x8765), (0x012087650000, .ldaAbs 0x8765),
      (0x013012340000, .ldaAbsIdx .x 0x1234), (0x0132ABCD0000, .ldaAbsIdx .y 0xABCD),
      (0x014087650000, .ldaIndX 0x8765), (0x015087650000, .ldaIndY 0x8765), (0x011487650000, .ldxImm 0x8765),
      (0x012487650000, .ldxAbs 0x8765), (0x013412340000, .ldxAbsIdx .x 0x1234),
      (0x0136ABCD0000, .ldxAbsIdx .y 0xABCD), (0x014487650000, .ldxIndX 0x8765), (0x015487650000, .ldxIndY 0x8765),
      (0x011887650000, .ldyImm 0x8765), (0x012887650000, .ldyAbs 0x8765), (0x013812340000, .ldyAbsIdx .x 0x1234),
      (0x013AABCD0000, .ldyAbsIdx .y 0xABCD), (0x014887650000, .ldyIndX 0x8765), (0x015887650000, .ldyIndY 0x8765)],
    decode Config.default p.1 = some p.2 := by decide

theorem test_decode_store :
    ∀ p ∈ [((0x021087650000 : CommandWord), Instr.staImm 0x8765), (0x022087650000, .staAbs 0x8765),
      (0x023012340000, .staAbsIdx .x 0x1234), (0x0232ABCD0000, .staAbsIdx .y 0xABCD),
      (0x024087650000, .staIndX 0x8765), (0x025087650000, .staIndY 0x8765), (0x021487650000, .stxImm 0x8765),
      (0x022487650000, .stxAbs 0x8765), (0x023412340000, .stxAbsIdx .x 0x1234),
      (0x0236ABCD0000, .stxAbsIdx .y 0xABCD), (0x021887650000, .styImm 0x8765), (0x022887650000, .styAbs 0x8765),
      (0x023812340000, .styAbsIdx .x 0x1234), (0x023AABCD0000, .styAbsIdx .y 0xABCD)],
    decode Config.default p.1 = some p.2 := by decide

theorem test_decode_arith :
    ∀ p ∈ [((0x031000A50000 : CommandWord), Instr.adcImm 0xA5), (0x032087650000, .adcAbs 0x8765),
      (0x033012340000, .adcAbsIdx .x 0x1234), (0x0332ABCD0000, .adcAbsIdx .y 0xABCD),
      (0x034087650000, .adcIndX 0x8765), (0x035087650000, .adcIndY 0x8765), (0x041000A50000, .sbcImm 0xA5),
      (0x042087650000, .sbcAbs 0x8765), (0x043012340000, .sbcAbsIdx .x 0x1234),
      (0x0432ABCD0000, .sbcAbsIdx .y 0xABCD), (0x044087650000, .sbcIndX 0x8765), (0x045087650000, .sbcIndY 0x8765)],
    decode Config.default p.1 = some p.2 := by decide

theorem test_decode_incDec :
    ∀ p ∈ [((0x051087650000 : CommandWord), Instr.incImm 0x8765), (0x052087650000, .incAbs 0x8765),
      (0x053012340000, .incAbsIdx .x 0x1234), (0x0532ABCD0000, .incAbsIdx .y 0xABCD),
      (0x054087650000, .incIndX 0x8765), (0x055087650000, .incIndY 0x8765), (0x061087650000, .decImm 0x8765),
      (0x062087650000, .decAbs 0x8765), (0x063012340000, .decAbsIdx .x 0x1234),
      (0x0632ABCD0000, .decAbsIdx .y 0xABCD), (0x064087650000, .decIndX 0x8765), (0x065087650000, .decIndY 0x8765),
      (0x070000000000, .clc), (0x080000000000, .sec)],
    decode Config.default p.1 = some p.2 := by decide

theorem test_decode_extAlu :
    ∀ p ∈ [((0x101000A50000 : CommandWord), Instr.andImm 0xA5), (0x102087650000, .andAbs 0x8765),
      (0x103012340000, .andAbsIdx .x 0x1234), (0x1032ABCD0000, .andAbsIdx .y 0xABCD),
      (0x104087650000, .andIndX 0x8765), (0x105087650000, .andIndY 0x8765), (0x111000A50000, .oraImm 0xA5),
      (0x112087650000, .oraAbs 0x8765), (0x113012340000, .oraAbsIdx .x 0x1234),
      (0x1132ABCD0000, .oraAbsIdx .y 0xABCD), (0x114087650000, .oraIndX 0x8765), (0x115087650000, .oraIndY 0x8765),
      (0x121000A50000, .eorImm 0xA5), (0x122087650000, .eorAbs 0x8765), (0x123012340000, .eorAbsIdx .x 0x1234),
      (0x1232ABCD0000, .eorAbsIdx .y 0xABCD), (0x124087650000, .eorIndX 0x8765), (0x125087650000, .eorIndY 0x8765),
      (0x136000000000, .aslAcc), (0x146000000000, .lsrAcc), (0x156000000000, .rolAcc), (0x166000000000, .rorAcc)],
    decode Config.default p.1 = some p.2 := by decide

/-! The illegal words of 95_test_vectors.md 2.9. -/

theorem test_decode_illegal_1 :
    [(0x000000000000 : CommandWord), 0x091000000000, 0x171000000000, 0xFF2000000000,
      0x017000000000, 0x010000000000, 0x016000000000, 0x011C007F0000, 0x0111007F0000].all
      (fun w => (decode Config.default w).isNone) = true := by decide

theorem test_decode_illegal_2 :
    [(0x0112007F0000 : CommandWord), 0x0110007F0001, 0x0244000C0000, 0x0254000C0000,
      0x0248000C0000, 0x0258000C0000, 0x031001000000, 0x0314007F0000, 0x036000000000].all
      (fun w => (decode Config.default w).isNone) = true := by decide

theorem test_decode_illegal_3 :
    [(0x056000000000 : CommandWord), 0x070000010000, 0x072000000000, 0x132030000000,
      0x156000010000, 0x2010FF110000, 0x2020FF110001, 0x2130120300FE, 0x2124120300FE].all
      (fun w => (decode Config.default w).isNone) = true := by decide

/-- An illegal word is answered 4 and changes nothing. -/
theorem test_illegal_answer : after 0x0254000C0000 { State.reset with a := 0x42, mem := [(0x000C, 0x30)] }
    (fun t => (errOf t, t.a, t.mem)) = some (some 4, 0x42, [(0x000C, 0x30)]) := by decide

/-! ### Well-formedness: each check refuses a term -/

theorem test_wellFormed_extIncDec :
    (Instr.incAbs 0x3000).wellFormed { Config.default with extIncDec := false } = false ∧
    (Instr.incImm 0x3000).wellFormed { Config.default with extIncDec := false } = true := by decide

theorem test_wellFormed_extAlu :
    Instr.aslAcc.wellFormed { Config.default with extAlu := false } = false ∧
    Instr.clc.wellFormed { Config.default with extAlu := false } = true := by decide

theorem test_wellFormed_memSize : Config.wellFormed { Config.default with memSize := 0x1000 } = false ∧
    Config.wellFormed { Config.default with memSize := 0x10001 } = false ∧
    Config.wellFormed { Config.default with memSize := 0x1001 } = true ∧
    Config.wellFormed { Config.default with memSize := 0x10000 } = true := by decide

/-- A word of an extension that is off is answered 4 (95_test_vectors.md 2.6, 2.8). -/
theorem test_extension_off : after 0x052030000000 { State.reset with
      cfg := { Config.default with extIncDec := false }, mem := [(0x3000, 0x41)] }
      (fun t => (errOf t, t.mem)) = some (some 4, [(0x3000, 0x41)]) ∧
    after 0x136000000000 { State.reset with cfg := { Config.default with extAlu := false }, a := 0x01 }
      (fun t => (errOf t, t.a)) = some (some 4, 0x01) := by decide

/-! ### The other parameters (95_test_vectors.md S1, 2.1, 2.4 to 2.6) -/

theorem test_byteFF : after 0x011000FE0000 { State.reset with cfg := { Config.default with nflagRule := .byteFF } }
      (fun t => t.n) = some false ∧
    after 0x011000FF0000 { State.reset with cfg := { Config.default with nflagRule := .byteFF } }
      (fun t => t.n) = some true := by decide

theorem test_mos6502_adc : after 0x031000800000 { State.reset with
      cfg := { Config.default with arithProfile := .mos6502 }, a := 0x80 }
    (fun t => (t.a, t.c, t.v, t.z, t.n)) = some (0x00, true, true, true, false) := by decide

theorem test_mos6502_sbc : after 0x041000060000 { State.reset with
      cfg := { Config.default with arithProfile := .mos6502 }, a := 0x04, c := true }
    (fun t => (t.a, t.c, t.v, t.z, t.n)) = some (0xFE, false, false, false, true) := by decide

theorem test_wrap : after 0x062030000000 { State.reset with cfg := { Config.default with incDecEdge := .wrap } }
    (fun t => (errOf t, t.mem)) = some (some 0, [(0x3000, 0xFF)]) := by decide

theorem test_memSize : after 0x0150FFFE0000 { State.reset with
      cfg := { Config.default with memSize := 0x10000 }, mem := [(0x0012, 0x21), (0xFFFE, 0x12)] }
    (fun t => (errOf t, t.a)) = some (some 0, 0x21) := by decide


/-! ### Host access (40_host_memory_access.md) -/

theorem test_memrd :
    after 0x2020FF110000 { State.reset with mem := [(0xFF11, 0x37)] } (·.resp) = some (some ⟨0, 0x37⟩) := by decide

theorem test_memrd_stops :
    after 0x2020FFFF0000 State.reset (fun t => (errOf t, t.mem)) = some (some 3, []) := by decide

theorem test_memwr :
    after 0x2120000500AA State.reset
      (fun t => (errOf t, t.mem)) = some (some 0, [(0x0005, 0xAA), (0x0806, 0xAA)]) := by decide

theorem test_memwr_stops :
    after 0x212030000100 { State.reset with mem := [(0x3000, 0x07)] }
      (fun t => (errOf t, t.mem)) = some (some 2, [(0x3000, 0x07)]) := by decide


/-! ### LOAD (41_load_store.md R82 to R96) -/

theorem test_ldaImm :
    after 0x011000800000 State.reset (fun t => (t.a, t.z, t.n)) = some (0x80, false, true) := by decide

theorem test_ldaAbs :
    after 0x012030000000 { State.reset with a := 0x55 }
      (fun t => (t.a, t.z, t.n)) = some (0x00, true, false) := by decide

theorem test_ldaAbsIdx :
    after 0x013030000000 { State.reset with x := 0x10, mem := [(0x3010, 0xFF)] }
      (fun t => (t.a, t.z, t.n)) = some (0xFF, false, true) := by decide

theorem test_ldaIndX :
    after 0x0140000C0000 { State.reset with x := 0x03, mem := [(0x000F, 0x11), (0x0010, 0xFF), (0xFF11, 0x37)] }
      (fun t => (t.a, t.z, t.n)) = some (0x37, false, false) := by decide

theorem test_ldaIndY :
    after 0x015000020000 { State.reset with y := 0x02, mem := [(0x0002, 0x01), (0x0003, 0x12), (0x1203, 0xFE)] }
      (fun t => (t.a, t.z, t.n)) = some (0xFE, false, true) := by decide

theorem test_ldxImm :
    after 0x011400000000 { State.reset with x := 0x44 }
      (fun t => (t.x, t.z, t.n)) = some (0x00, true, false) := by decide

theorem test_ldxAbs :
    after 0x012430000000 { State.reset with mem := [(0x3000, 0x7F)] }
      (fun t => (t.x, t.z, t.n)) = some (0x7F, false, false) := by decide

theorem test_ldxAbsIdx :
    after 0x013430000000 { State.reset with x := 0x02, mem := [(0x3002, 0x09)] }
      (fun t => (t.x, t.z, t.n)) = some (0x09, false, false) := by decide

theorem test_ldxIndX :
    after 0x0144000C0000 { State.reset with x := 0x03, mem := [(0x000F, 0x11), (0x0010, 0xFF), (0xFF11, 0x37)] }
      (fun t => (t.x, t.z, t.n)) = some (0x37, false, false) := by decide

theorem test_ldxIndY :
    after 0x015400400000 { State.reset with y := 0x01, mem := [(0x0040, 0xFF), (0x0041, 0xFF)] }
      (fun t => (errOf t, t.mem)) = some (some 3, [(0x0040, 0xFF), (0x0041, 0xFF)]) := by decide

theorem test_ldyImm :
    after 0x011801000000 { State.reset with y := 0x07 } (fun t => (errOf t, t.mem)) = some (some 1, []) := by decide

theorem test_ldyAbs :
    after 0x0128FFFF0000 State.reset (fun t => (errOf t, t.mem)) = some (some 3, []) := by decide

theorem test_ldyAbsIdx :
    after 0x0138FFF00000 { State.reset with x := 0x20 } (fun t => (errOf t, t.mem)) = some (some 3, []) := by decide

theorem test_ldyIndX :
    after 0x014800FF0000 { State.reset with x := 0x00, mem := [(0x0100, 0x30), (0x3000, 0x81)] }
      (fun t => (t.y, t.z, t.n)) = some (0x81, false, true) := by decide

theorem test_ldyIndY :
    after 0x015800020000 { State.reset with y := 0x02, mem := [(0x0002, 0x01), (0x0003, 0x12), (0x1203, 0xFE)] }
      (fun t => (t.y, t.z, t.n)) = some (0xFE, false, true) := by decide


/-! ### STORE (R97 to R107) -/

theorem test_staImm :
    after 0x021000050000 { State.reset with a := 0xAA }
      (fun t => (errOf t, t.mem)) = some (some 0, [(0x0005, 0xAA), (0x0806, 0xAA)]) := by decide

theorem test_staAbs :
    after 0x022008060000 { State.reset with a := 0xBB, mem := [(0x0005, 0xAA), (0x0806, 0xAA)] }
      (fun t => (errOf t, t.mem)) = some (some 0, [(0x0005, 0xBB), (0x0806, 0xBB)]) := by decide

theorem test_staAbsIdx :
    after 0x023207F00000 { State.reset with a := 0x5A, y := 0x0F }
      (fun t => (errOf t, t.mem)) = some (some 0, [(0x07FF, 0x5A), (0x1000, 0x5A)]) := by decide

theorem test_staIndX :
    after 0x024000200000 { State.reset with a := 0x99, x := 0x04, mem := [(0x0025, 0x40)] }
      (fun t => (errOf t, t.mem)) = some (some 0, [(0x0025, 0x40), (0x4000, 0x99)]) := by decide

theorem test_staIndY :
    after 0x025000200000 { State.reset with a := 0x42, y := 0x10, mem := [(0x0020, 0xF8), (0x0021, 0xFF)] }
      (fun t => (errOf t, t.mem)) = some (some 3, [(0x0020, 0xF8), (0x0021, 0xFF)]) := by decide

theorem test_stxImm :
    after 0x021408000000 { State.reset with x := 0x12 }
      (fun t => (errOf t, t.mem)) = some (some 0, [(0x0800, 0x12)]) := by decide

theorem test_stxAbs :
    after 0x022410070000 { State.reset with x := 0xCC, mem := [(0x0005, 0xAA), (0x0806, 0xAA)] }
      (fun t => (errOf t, t.mem)) = some (some 0, [(0x0005, 0xAA), (0x0806, 0xCC), (0x1007, 0xCC)]) := by decide

theorem test_stxAbsIdx :
    after 0x023600F00000 { State.reset with x := 0x33, y := 0x20 }
      (fun t => (errOf t, t.mem)) = some (some 0, [(0x0110, 0x33), (0x0911, 0x33)]) := by decide

theorem test_styImm :
    after 0x0218FFFF0000 { State.reset with y := 0x01 } (fun t => (errOf t, t.mem)) = some (some 3, []) := by decide

theorem test_styAbs :
    after 0x022830000000 { State.reset with y := 0x00, z := false, mem := [(0x3000, 0x77)] }
      (fun t => (errOf t, t.mem)) = some (some 0, []) := by decide

theorem test_styAbsIdx :
    after 0x023830000000 { State.reset with x := 0xFF, y := 0x80 }
      (fun t => (errOf t, t.mem)) = some (some 0, [(0x30FF, 0x80)]) := by decide


/-! ### ADC and SBC (42_adc_sbc.md) -/

theorem test_adcImm :
    after 0x0310007F0000 { State.reset with a := 0x01 }
      (fun t => (t.a, t.c, t.v, t.z, t.n)) = some (0x80, false, true, false, true) := by decide

theorem test_adcAbs :
    after 0x032030000000 { State.reset with a := 0xFD, mem := [(0x3000, 0x03)] }
      (fun t => (t.a, t.c, t.v, t.z, t.n)) = some (0xFF, true, false, false, true) := by decide

theorem test_adcAbsIdx :
    after 0x033230000000 { State.reset with a := 0x01, y := 0x05, c := true, mem := [(0x3005, 0x01)] }
      (fun t => (t.a, t.c, t.v, t.z, t.n)) = some (0x03, false, false, false, false) := by decide

theorem test_adcIndX :
    after 0x0340000C0000 { State.reset with
        a := 0x80, x := 0x03, mem := [(0x000F, 0x11), (0x0010, 0xFF), (0xFF11, 0x80)] }
      (fun t => (t.a, t.c, t.v, t.z, t.n)) = some (0xFF, true, false, false, true) := by decide

theorem test_adcIndY :
    after 0x035000020000 { State.reset with a := 0x00, y := 0x02, v := true, mem := [(0x0002, 0x01), (0x0003, 0x12)] }
      (fun t => (t.a, t.c, t.v, t.z, t.n)) = some (0x00, false, false, true, false) := by decide

theorem test_sbcImm :
    after 0x041000060000 { State.reset with a := 0x04, c := true }
      (fun t => (t.a, t.c, t.v, t.z, t.n)) = some (0xFE, false, true, false, true) := by decide

theorem test_sbcAbs :
    after 0x042030000000 { State.reset with a := 0x05, c := true, mem := [(0x3000, 0x02)] }
      (fun t => (t.a, t.c, t.v, t.z, t.n)) = some (0x03, true, false, false, false) := by decide

theorem test_sbcAbsIdx :
    after 0x043030000000 { State.reset with a := 0x00, x := 0x01, c := false, mem := [(0x3001, 0xFF)] }
      (fun t => (t.a, t.c, t.v, t.z, t.n)) = some (0x00, false, false, true, false) := by decide

theorem test_sbcIndX :
    after 0x0440000C0000 { State.reset with
        a := 0x80, x := 0x03, c := true, mem := [(0x000F, 0x11), (0x0010, 0xFF), (0xFF11, 0x01)] }
      (fun t => (t.a, t.c, t.v, t.z, t.n)) = some (0x7F, true, true, false, false) := by decide

theorem test_sbcIndY :
    after 0x045000020000 { State.reset with
        a := 0x10, y := 0x02, c := false, mem := [(0x0002, 0x01), (0x0003, 0x12), (0x1203, 0x0F)] }
      (fun t => (t.a, t.c, t.v, t.z, t.n)) = some (0x00, true, false, true, false) := by decide


/-! ### INC, DEC, CLC, SEC (43_inc_dec_flagops.md) -/

theorem test_incImm :
    after 0x051000100000 { State.reset with mem := [(0x0010, 0x41), (0x0811, 0x41)] }
      (fun t => (errOf t, t.mem)) = some (some 0, [(0x0010, 0x42), (0x0811, 0x42)]) := by decide

theorem test_incAbs :
    after 0x052030000000 { State.reset with mem := [(0x3000, 0xFF)] }
      (fun t => (errOf t, t.mem)) = some (some 2, [(0x3000, 0xFF)]) := by decide

theorem test_incAbsIdx :
    after 0x053030000000 { State.reset with x := 0x02, n := false, mem := [(0x3002, 0x7F)] }
      (fun t => (errOf t, t.mem)) = some (some 0, [(0x3002, 0x80)]) := by decide

theorem test_incIndX :
    after 0x054000200000 { State.reset with x := 0x04, z := true, mem := [(0x0025, 0x40)] }
      (fun t => (errOf t, t.mem)) = some (some 0, [(0x0025, 0x40), (0x4000, 0x01)]) := by decide

theorem test_incIndY :
    after 0x055000200000 { State.reset with y := 0x01, mem := [(0x0020, 0xFF), (0x0021, 0x2F), (0x3000, 0xFE)] }
      (fun t => (errOf t, t.mem)) = some (some 0, [(0x0020, 0xFF), (0x0021, 0x2F), (0x3000, 0xFF)]) := by decide

theorem test_decImm :
    after 0x061008110000 { State.reset with mem := [(0x0010, 0x41), (0x0811, 0x41)] }
      (fun t => (errOf t, t.mem)) = some (some 0, [(0x0010, 0x40), (0x0811, 0x40)]) := by decide

theorem test_decAbs :
    after 0x062030000000 State.reset (fun t => (errOf t, t.mem)) = some (some 2, []) := by decide

theorem test_decAbsIdx :
    after 0x063230000000 { State.reset with y := 0x02, mem := [(0x3002, 0x01)] }
      (fun t => (errOf t, t.mem)) = some (some 0, []) := by decide

theorem test_decIndX :
    after 0x064000200000 { State.reset with x := 0x04, mem := [(0x0025, 0x40), (0x4000, 0x80)] }
      (fun t => (errOf t, t.mem)) = some (some 0, [(0x0025, 0x40), (0x4000, 0x7F)]) := by decide

theorem test_decIndY :
    after 0x065000200000 { State.reset with y := 0x01, mem := [(0x0020, 0xFF), (0x0021, 0x2F), (0x3000, 0x10)] }
      (fun t => (errOf t, t.mem)) = some (some 0, [(0x0020, 0xFF), (0x0021, 0x2F), (0x3000, 0x0F)]) := by decide

theorem test_clc :
    after 0x070000000000 { State.reset with a := 0x12, c := true, v := true, z := true, n := true }
      (fun t => t.c) = some false := by decide

theorem test_sec :
    after 0x080000000000 { State.reset with a := 0x12, c := false, v := true, z := true, n := true }
      (fun t => t.c) = some true := by decide


/-! ### The extension ALU (44_logic_shift_ext.md) -/

theorem test_andImm :
    after 0x1010000F0000 { State.reset with a := 0xF0, c := true, v := true }
      (fun t => (t.a, t.z, t.n)) = some (0x00, true, false) := by decide

theorem test_andAbs :
    after 0x102030000000 { State.reset with a := 0xFF, mem := [(0x3000, 0x80)] }
      (fun t => (t.a, t.z, t.n)) = some (0x80, false, true) := by decide

theorem test_andAbsIdx :
    after 0x103030000000 { State.reset with a := 0x3C, x := 0x01, mem := [(0x3001, 0x0F)] }
      (fun t => (t.a, t.z, t.n)) = some (0x0C, false, false) := by decide

theorem test_andIndX :
    after 0x1040000C0000 { State.reset with
        a := 0xFF, x := 0x03, mem := [(0x000F, 0x11), (0x0010, 0xFF), (0xFF11, 0x37)] }
      (fun t => (t.a, t.z, t.n)) = some (0x37, false, false) := by decide

theorem test_andIndY :
    after 0x105000020000 { State.reset with
        a := 0x0F, y := 0x02, mem := [(0x0002, 0x01), (0x0003, 0x12), (0x1203, 0xFE)] }
      (fun t => (t.a, t.z, t.n)) = some (0x0E, false, false) := by decide

theorem test_oraImm :
    after 0x111000000000 { State.reset with a := 0x00, n := true }
      (fun t => (t.a, t.z, t.n)) = some (0x00, true, false) := by decide

theorem test_oraAbs :
    after 0x112030000000 { State.reset with a := 0x01, mem := [(0x3000, 0x80)] }
      (fun t => (t.a, t.z, t.n)) = some (0x81, false, true) := by decide

theorem test_oraAbsIdx :
    after 0x113230000000 { State.reset with a := 0x30, y := 0x01, mem := [(0x3001, 0x0C)] }
      (fun t => (t.a, t.z, t.n)) = some (0x3C, false, false) := by decide

theorem test_oraIndX :
    after 0x1140000C0000 { State.reset with
        a := 0x40, x := 0x03, mem := [(0x000F, 0x11), (0x0010, 0xFF), (0xFF11, 0x37)] }
      (fun t => (t.a, t.z, t.n)) = some (0x77, false, false) := by decide

theorem test_oraIndY :
    after 0x115000020000 { State.reset with
        a := 0x01, y := 0x02, mem := [(0x0002, 0x01), (0x0003, 0x12), (0x1203, 0xFE)] }
      (fun t => (t.a, t.z, t.n)) = some (0xFF, false, true) := by decide

theorem test_eorImm :
    after 0x121000FF0000 { State.reset with a := 0xFF }
      (fun t => (t.a, t.z, t.n)) = some (0x00, true, false) := by decide

theorem test_eorAbs :
    after 0x122030000000 { State.reset with a := 0x7F, mem := [(0x3000, 0xFF)] }
      (fun t => (t.a, t.z, t.n)) = some (0x80, false, true) := by decide

theorem test_eorAbsIdx :
    after 0x123030000000 { State.reset with a := 0x55, x := 0x01, mem := [(0x3001, 0xAA)] }
      (fun t => (t.a, t.z, t.n)) = some (0xFF, false, true) := by decide

theorem test_eorIndX :
    after 0x1240000C0000 { State.reset with
        a := 0x37, x := 0x03, mem := [(0x000F, 0x11), (0x0010, 0xFF), (0xFF11, 0x37)] }
      (fun t => (t.a, t.z, t.n)) = some (0x00, true, false) := by decide

theorem test_eorIndY :
    after 0x125000020000 { State.reset with
        a := 0x01, y := 0x02, mem := [(0x0002, 0x01), (0x0003, 0x12), (0x1203, 0xFE)] }
      (fun t => (t.a, t.z, t.n)) = some (0xFF, false, true) := by decide

theorem test_aslAcc :
    after 0x136000000000 { State.reset with a := 0x81 }
      (fun t => (t.a, t.c, t.z, t.n)) = some (0x02, true, false, false) := by decide

theorem test_lsrAcc :
    after 0x146000000000 { State.reset with a := 0x01, n := true }
      (fun t => (t.a, t.c, t.z, t.n)) = some (0x00, true, true, false) := by decide

theorem test_rolAcc :
    after 0x156000000000 { State.reset with a := 0x80, c := true }
      (fun t => (t.a, t.c, t.z, t.n)) = some (0x01, true, false, false) := by decide

theorem test_rorAcc :
    after 0x166000000000 { State.reset with a := 0x01, c := true }
      (fun t => (t.a, t.c, t.z, t.n)) = some (0x80, true, false, true) := by decide

/-! ### Witnesses: for each statement with hypotheses, a state and operands that meet them, clause by clause -/

/-- What the host still has to do. -/
def withEvents (es : List HostEvent) : State := { State.reset with events := es }

/-- The pointer at 0x20 is 0xFFFE, the last valid cell; the one at 0x22 is 0xFFFF; the cell holds `b`. -/
def pointers (b : Byte) : State :=
  { State.reset with mem := Memory.write [(0x0020, 0xFE), (0x0021, 0xFF), (0x0022, 0xFF), (0x0023, 0xFF)] 0xFFFE b }

/-- The same with the wrapping edge. -/
def wrapping (s : State) : State := { s with cfg := { s.cfg with incDecEdge := .wrap } }

theorem test_pointers : (pointers 7).pointerAt 0x20 = 0xFFFE ∧ (pointers 7).pointerAt 0x22 = 0xFFFF ∧
    (pointers 7).mem.read 0xFFFE = 7 ∧ (pointers 7).cfg.memSize = 0xFFFF := by decide

/-- The table's first row has a word; a legal word and an illegal one exist. -/
theorem test_witness_OpcodeTableDecidesLegality : (opcodeTable.any fun r => r.holds 0x2020FF110000) = true ∧
    (decode Config.default 0x2020FF110000).isSome = true ∧ (decode Config.default 0x2020FF110001).isSome = false := by
  decide

/-- A word that fails the first condition, waiting in a configuration within bounds. -/
theorem test_witness_LegalExactlyWhenNineConditionsHold :
    (withEvents [.command 0]).cfg.wellFormed = true ∧ ¬ LegalWord (withEvents [.command 0]).cfg 0 :=
  ⟨by decide, fun h => absurd h.opKnown (by decide)⟩

theorem test_witness_StepRunsDecodedCommand :
    (withEvents [.command 0x080000000000]).cfg.wellFormed = true ∧
    decode (withEvents [.command 0x080000000000]).cfg 0x080000000000 = some .sec := by decide

theorem test_witness_StepAnswersIllegalCommand :
    (withEvents [.command 0]).cfg.wellFormed = true ∧ decode (withEvents [.command 0]).cfg 0 = none := by decide

theorem test_witness_HostResetsZeroTheState :
    (withEvents [.resetCore]).cfg.wellFormed = true ∧ (withEvents [.resetCore]).events = [.resetCore] ∧
    Config.wellFormed { Config.default with memSize := 0x1001 } = true ∧
    (withEvents [.resetAll { Config.default with memSize := 0x1001 }]).events =
      [.resetAll { Config.default with memSize := 0x1001 }] := by decide

theorem test_witness_IdleStepChangesNothing :
    State.reset.cfg.wellFormed = true ∧ State.reset.events = [] := by decide

/-- Both sides of the equivalence occur: a step that runs and one that is refused. -/
theorem test_witness_StepStopsOnlyOnConfigurationsOutOfBounds :
    step State.reset = .next State.reset ∧
    step (withEvents [.resetAll { Config.default with memSize := 0x1000 }]) = .refused .configurationOutOfBounds :=
  ⟨rfl, rfl⟩

theorem test_reset_inv : State.reset.Inv := ⟨by decide, by decide, by decide, fun _ h => by cases h⟩

/-- A state that meets the invariant, and a step from it that writes memory. -/
theorem test_witness_StepKeepsInvariant :
    (withEvents [.command 0x212000050001]).Inv ∧
    after 0x212000050001 State.reset (fun t => t.mem) = some [(0x0005, 0x01), (0x0806, 0x01)] :=
  ⟨⟨by decide, by decide, by decide, fun _ h => by cases h⟩, by decide⟩

/-- A safe run of one step that runs a command, from a state that meets the invariant. -/
theorem test_witness_SafeRunsReachInvariantStates :
    (withEvents [.command 0x080000000000]).Inv ∧ SafeRun 1 (withEvents [.command 0x080000000000]) :=
  ⟨⟨by decide, by decide, by decide, fun _ h => by cases h⟩, _, rfl, .inr rfl, trivial⟩

/-- A step that keeps the configuration and one, a ResetAll, that does not. -/
theorem test_witness_OnlyResetAllChangesConfiguration :
    after 0x080000000000 State.reset (fun t => t.cfg) = some Config.default ∧
    step (withEvents [.resetAll { Config.default with memSize := 0x1001 }]) =
      .next (State.powerOn { Config.default with memSize := 0x1001 }) := ⟨by decide, rfl⟩

/-- A word whose response carries an error, another command behind it. -/
theorem test_witness_ErrorsLeaveTheStateUnchanged :
    ∃ t r, step (withEvents [.command 0x011001000000, .command 0x080000000000]) = .next t ∧ t.resp = some r ∧
      r.err ≠ 0 ∧ t.events = [.command 0x080000000000] :=
  ⟨_, _, rfl, rfl, by decide, rfl⟩

theorem test_witness_FailingCommandFailsAgain :
    ∃ t r, exec (.ldaImm 0x0100) State.reset = .next t ∧ t.resp = some r ∧ r.err ≠ 0 :=
  ⟨_, _, rfl, rfl, by decide⟩

/-- Both sides: the literal 0x0100 overflows, 0x00FF does not. -/
theorem test_witness_RegisterOverflowExactlyFromWideLiterals :
    (∃ t, exec (.ldaImm 0x0100) State.reset = .next t ∧ t.answered 1) ∧
    (∃ t, exec (.ldaImm 0x00FF) State.reset = .next t ∧ t.answered 0) :=
  ⟨⟨_, rfl, rfl⟩, _, rfl, rfl⟩

/-- Each error clause is reached: MEMWR, INC and DEC answer 2, a store beyond memory and a wide MEMWR there answer 3 and
2; a cell that holds 0xFF, or 0x00, away from the effective address raises nothing. -/
theorem test_witness_SourcesOfTheOtherErrors :
    (∃ t, exec (.memwr 0 0x0100) State.reset = .next t ∧ t.answered 2) ∧
    (∃ t, exec (.incAbs 1) { State.reset with mem := [(1, 0xFF)] } = .next t ∧ t.answered 2) ∧
    (∃ t, exec (.incAbs 2) { State.reset with mem := [(1, 0xFF)] } = .next t ∧ t.answered 0) ∧
    (∃ t, exec (.decAbs 1) State.reset = .next t ∧ t.answered 2) ∧
    (∃ t, exec (.decAbs 1) { State.reset with mem := [(1, 0xFF)] } = .next t ∧ t.answered 0) ∧
    (∃ t, exec (.staAbs 0xFFFF) State.reset = .next t ∧ t.answered 3) ∧
    (∃ t, exec (.memwr 0xFFFF 0x0100) State.reset = .next t ∧ t.answered 2) :=
  ⟨⟨_, rfl, rfl⟩, ⟨_, rfl, rfl⟩, ⟨_, rfl, rfl⟩, ⟨_, rfl, rfl⟩, ⟨_, rfl, rfl⟩, ⟨_, rfl, rfl⟩, _, rfl, rfl⟩

/-- A command of each kind: writing a register, the carry, memory. -/
theorem test_witness_CommandsWriteOnlyWhatTheTablesSay :
    (∃ t, exec (.ldxImm 5) State.reset = .next t ∧ t.x = 5) ∧ (∃ t, exec .sec State.reset = .next t ∧ t.c = true) ∧
    (∃ t, exec (.staAbs 1) { State.reset with a := 5 } = .next t ∧ t.mem.read 1 = 5) :=
  ⟨⟨_, rfl, rfl⟩, ⟨_, rfl, rfl⟩, _, rfl, rfl⟩

/-- A completed register write; a command that writes none; one that fails. -/
theorem test_witness_ZAndNDescribeTheLastRegisterWrite :
    (∃ t, exec (.ldxImm 0) State.reset = .next t ∧ t.answered 0 ∧ (Instr.ldxImm 0).regWritten = some .x) ∧
    (∃ t, exec .sec State.reset = .next t ∧ Instr.sec.regWritten = none) ∧
    (∃ t, exec (.ldxImm 0x0100) State.reset = .next t ∧ ¬ t.answered 0) :=
  ⟨⟨_, rfl, rfl, rfl⟩, ⟨_, rfl, rfl⟩, _, rfl, fun h => absurd (show some (1 : BitVec 3) = some 0 from h) (by decide)⟩

/-- Commands that complete and write `V`, and `Z` and `N`, from a state in which all three are set. -/
theorem test_witness_OverflowZeroNegativeAreNeverRead :
    (∃ t, exec (.adcImm 1) { State.reset with v := true, z := true, n := true } = .next t ∧ t.answered 0 ∧
      (Instr.adcImm 1).writesV = true ∧ t.v = false) ∧
    (∃ t, exec (.ldxImm 1) { State.reset with v := true, z := true, n := true } = .next t ∧ t.answered 0 ∧
      (Instr.ldxImm 1).regWritten ≠ none ∧ t.z = false ∧ t.n = false) :=
  ⟨⟨_, rfl, rfl, rfl, rfl⟩, _, rfl, rfl, nofun, rfl, rfl⟩

/-- Writes at both ends of each range of the statement: 0, 0x7FF; 0x801, 0x2000; 0x1002, 0x1801; 0x1001. -/
theorem test_witness_MirroredPairProperty :
    (∀ a ∈ [0x0, 0x7FF, 0x800, 0x801, 0x1001, 0x1002, 0x1801, 0x1802, 0x2000, 0x2001, 0xFFFE],
      (memWrite State.reset a (0x5A : Byte).toNat).isOk = true) ∧ State.reset.mem.paired :=
  ⟨by decide, fun _ _ => rfl⟩

/-- An OK MEMWR, its cell, its partner and a cell it does not reach. -/
theorem test_witness_MemrdSeesTheLatestMemwr :
    (∃ t, exec (.memwr 0x7FF 1) State.reset = .next t ∧ t.answered 0) ∧ WriteReaches 0x7FF 0x7FF ∧
    WriteReaches 0x7FF 0x1000 ∧ ¬ WriteReaches 0x7FF 0x800 ∧ 0x1000 < State.reset.cfg.memSize :=
  ⟨⟨_, rfl, rfl⟩, by unfold WriteReaches; decide, by unfold WriteReaches; decide, by unfold WriteReaches; decide,
    by decide⟩

/-- Addresses on both sides of `MEM_SIZE`: the hypotheses of every statement about the cell at `arg`. -/
theorem test_witness_MemrdReturnsTheCell : (0xFFFE : Half).toNat < State.reset.cfg.memSize ∧
    State.reset.cfg.memSize ≤ (0xFFFF : Half).toNat := by decide

theorem test_witness_MemwrWritesTheCellAndItsMirror :
    ((0xFF : Half).toNat ≤ 0xFF ∧ (0xFFFE : Half).toNat < State.reset.cfg.memSize) ∧ 0xFF < (0x100 : Half).toNat ∧
    ((0xFF : Half).toNat ≤ 0xFF ∧ State.reset.cfg.memSize ≤ (0xFFFF : Half).toNat) := by decide

theorem test_witness_LoadImmediateSetsTheRegister (arg : Half) :
    (0x0110#16, Reg.a, Instr.ldaImm arg) ∈
      [(0x0110#16, Reg.a, Instr.ldaImm arg), (0x0114, .x, .ldxImm arg), (0x0118, .y, .ldyImm arg)] ∧
    (0xFF : Half).toNat ≤ 0xFF ∧ 0xFF < (0x100 : Half).toNat := ⟨.head _, by decide, by decide⟩

theorem test_witness_LoadAbsoluteReadsTheCell (arg : Half) :
    (0x0120#16, Reg.a, Instr.ldaAbs arg) ∈
      [(0x0120#16, Reg.a, Instr.ldaAbs arg), (0x0124, .x, .ldxAbs arg), (0x0128, .y, .ldyAbs arg)] ∧
    (0xFFFE : Half).toNat < State.reset.cfg.memSize ∧ State.reset.cfg.memSize ≤ (0xFFFF : Half).toNat :=
  ⟨.head _, by decide, by decide⟩

/-- Both sides of `MEM_SIZE` for `arg` plus an index register of 0xFF, and the first row of the statement's list. -/
theorem test_witness_LoadAbsoluteIndexedReadsTheCell (s : State) (arg : Half)
    (rows : List (Half × Byte × Reg × Instr)) :
    (0x0130#16, s.x, Reg.a, Instr.ldaAbsIdx .x arg) ∈ (0x0130#16, s.x, Reg.a, Instr.ldaAbsIdx .x arg) :: rows ∧
    (0xFEFF : Half).toNat + ({ State.reset with x := 0xFF } : State).x.toNat < State.reset.cfg.memSize ∧
    State.reset.cfg.memSize ≤ (0xFF00 : Half).toNat + ({ State.reset with x := 0xFF } : State).x.toNat :=
  ⟨.head _, by decide, by decide⟩

/-- The pointer cells and the pointer on both sides of `MEM_SIZE`, with `X` = 1. -/
theorem test_witness_LoadIndexedIndirectReadsTheCell :
    (let s : State := { pointers 7 with x := 1 }
     ((0x1F : Half).toNat + s.x.toNat + 1 < s.cfg.memSize ∧
      s.pointerAt ((0x1F : Half).toNat + s.x.toNat) < s.cfg.memSize) ∧
     s.cfg.memSize ≤ s.pointerAt ((0x21 : Half).toNat + s.x.toNat) ∧
     s.cfg.memSize ≤ (0xFFFD : Half).toNat + s.x.toNat + 1) ∧
    (∀ arg : Half, (0x0140#16, Reg.a, Instr.ldaIndX arg) ∈
      [(0x0140#16, Reg.a, Instr.ldaIndX arg), (0x0144, .x, .ldxIndX arg), (0x0148, .y, .ldyIndX arg)]) :=
  ⟨by decide, fun _ => .head _⟩

/-- The pointer cells, and the pointer plus `Y`, on both sides of `MEM_SIZE`. -/
theorem test_witness_LoadIndirectIndexedReadsTheCell :
    ((0x20 : Half).toNat + 1 < (pointers 7).cfg.memSize ∧
      (pointers 7).pointerAt (0x20 : Half).toNat + (pointers 7).y.toNat < (pointers 7).cfg.memSize) ∧
    (let s : State := { pointers 7 with y := 1 }
     s.cfg.memSize ≤ s.pointerAt (0x20 : Half).toNat + s.y.toNat ∧ s.cfg.memSize ≤ (0xFFFE : Half).toNat + 1) ∧
    (∀ arg : Half, (0x0150#16, Reg.a, Instr.ldaIndY arg) ∈
      [(0x0150#16, Reg.a, Instr.ldaIndY arg), (0x0154, .x, .ldxIndY arg), (0x0158, .y, .ldyIndY arg)]) :=
  ⟨by decide, by decide, fun _ => .head _⟩

theorem test_witness_StoreAtTheAddress (s : State) (arg : Half) (rows : List (Half × Byte × Instr)) :
    (0x0210#16, s.a, Instr.staImm arg) ∈ (0x0210#16, s.a, Instr.staImm arg) :: rows ∧
    (0xFFFE : Half).toNat < State.reset.cfg.memSize ∧ State.reset.cfg.memSize ≤ (0xFFFF : Half).toNat :=
  ⟨.head _, by decide, by decide⟩

theorem test_witness_StoreAbsoluteIndexed (s : State) (arg : Half) (rows : List (Half × Byte × Byte × Instr)) :
    (0x0230#16, s.x, s.a, Instr.staAbsIdx .x arg) ∈ (0x0230#16, s.x, s.a, Instr.staAbsIdx .x arg) :: rows ∧
    (0xFEFF : Half).toNat + ({ State.reset with x := 0xFF } : State).x.toNat < State.reset.cfg.memSize ∧
    State.reset.cfg.memSize ≤ (0xFF00 : Half).toNat + ({ State.reset with x := 0xFF } : State).x.toNat :=
  ⟨.head _, by decide, by decide⟩

theorem test_witness_StoreIndexedIndirect :
    let s : State := { pointers 7 with x := 1 }
    ((0x1F : Half).toNat + s.x.toNat + 1 < s.cfg.memSize ∧
      s.pointerAt ((0x1F : Half).toNat + s.x.toNat) < s.cfg.memSize) ∧
    s.cfg.memSize ≤ s.pointerAt ((0x21 : Half).toNat + s.x.toNat) ∧
    s.cfg.memSize ≤ (0xFFFD : Half).toNat + s.x.toNat + 1 := by decide

theorem test_witness_StoreIndirectIndexed :
    ((0x20 : Half).toNat + 1 < (pointers 7).cfg.memSize ∧
      (pointers 7).pointerAt (0x20 : Half).toNat + (pointers 7).y.toNat < (pointers 7).cfg.memSize) ∧
    (let s : State := { pointers 7 with y := 1 }
     s.cfg.memSize ≤ s.pointerAt (0x20 : Half).toNat + s.y.toNat ∧ s.cfg.memSize ≤ (0xFFFE : Half).toNat + 1) := by
  decide

theorem test_witness_AddSubtractImmediate : 0xFF < (0x100 : Half).toNat := by decide

theorem test_witness_AddSubtractAbsolute (s : State) (arg : Half) (rows : List (Half × (Byte → State) × Instr)) :
    (0x0320#16, s.afterAdc, Instr.adcAbs arg) ∈ (0x0320#16, s.afterAdc, Instr.adcAbs arg) :: rows ∧
    (0xFFFE : Half).toNat < State.reset.cfg.memSize ∧ State.reset.cfg.memSize ≤ (0xFFFF : Half).toNat :=
  ⟨.head _, by decide, by decide⟩

theorem test_witness_AddSubtractAbsoluteIndexed (s : State) (arg : Half)
    (rows : List (Half × Byte × (Byte → State) × Instr)) :
    (0x0330#16, s.x, s.afterAdc, Instr.adcAbsIdx .x arg) ∈
      (0x0330#16, s.x, s.afterAdc, Instr.adcAbsIdx .x arg) :: rows ∧
    (0xFEFF : Half).toNat + ({ State.reset with x := 0xFF } : State).x.toNat < State.reset.cfg.memSize ∧
    State.reset.cfg.memSize ≤ (0xFF00 : Half).toNat + ({ State.reset with x := 0xFF } : State).x.toNat :=
  ⟨.head _, by decide, by decide⟩

theorem test_witness_AddSubtractIndexedIndirect (s : State) (arg : Half) (rows : List (Half × (Byte → State) × Instr)) :
    (0x0340#16, s.afterAdc, Instr.adcIndX arg) ∈ (0x0340#16, s.afterAdc, Instr.adcIndX arg) :: rows ∧
    (let s : State := { pointers 7 with x := 1 }
     ((0x1F : Half).toNat + s.x.toNat + 1 < s.cfg.memSize ∧
      s.pointerAt ((0x1F : Half).toNat + s.x.toNat) < s.cfg.memSize) ∧
     s.cfg.memSize ≤ s.pointerAt ((0x21 : Half).toNat + s.x.toNat) ∧
     s.cfg.memSize ≤ (0xFFFD : Half).toNat + s.x.toNat + 1) := ⟨.head _, by decide⟩

theorem test_witness_AddSubtractIndirectIndexed (s : State) (arg : Half) (rows : List (Half × (Byte → State) × Instr)) :
    (0x0350#16, s.afterAdc, Instr.adcIndY arg) ∈ (0x0350#16, s.afterAdc, Instr.adcIndY arg) :: rows ∧
    ((0x20 : Half).toNat + 1 < (pointers 7).cfg.memSize ∧
      (pointers 7).pointerAt (0x20 : Half).toNat + (pointers 7).y.toNat < (pointers 7).cfg.memSize) ∧
    (let s : State := { pointers 7 with y := 1 }
     s.cfg.memSize ≤ s.pointerAt (0x20 : Half).toNat + s.y.toNat ∧ s.cfg.memSize ≤ (0xFFFE : Half).toNat + 1) :=
  ⟨.head _, by decide, by decide⟩

/-- A carrying ADC, a zero one and one that sets `V`, under `DOCUMENTED`. -/
theorem test_witness_DocumentedAdcCornerCases :
    State.reset.cfg.arithProfile = .documented ∧
    (∃ t, exec (.adcImm 1) { State.reset with a := 0xFF } = .next t ∧ t.c = true) ∧
    (∃ t, exec (.adcImm 0) State.reset = .next t ∧ t.z = true) ∧
    (∃ t, exec (.adcImm 1) { State.reset with a := 0x7F } = .next t ∧ t.v = true) :=
  ⟨rfl, ⟨_, rfl, rfl⟩, ⟨_, rfl, rfl⟩, _, rfl, rfl⟩

/-- Both profiles for the literal equal to `A`, at `A` = 0x80; and the borrow from 0x00. -/
theorem test_witness_SbcCornerCases :
    (∃ t, exec (.sbcImm 0xFF) State.reset = .next t ∧ t.z = true) ∧
    (∃ t, exec (.sbcImm 0x80) { State.reset with a := 0x80, c := true } = .next t ∧ t.v = true) ∧
    (∃ t, exec (.sbcImm 0x80) { State.reset with
        cfg := { Config.default with arithProfile := .mos6502 }, a := 0x80, c := true } = .next t ∧ t.v = false) :=
  ⟨⟨_, rfl, rfl⟩, ⟨_, rfl, rfl⟩, _, rfl, rfl⟩

/-- Off the edge, on it under `FAULT`, on it under `WRAP`, and out of range. -/
theorem test_witness_IncDecAtTheAddress (arg : Half) (rows : List (Half × Bool × Byte × Byte × Instr)) :
    (0x0510#16, true, 0xFF#8, 1#8, Instr.incImm arg) ∈ (0x0510#16, true, 0xFF#8, 1#8, Instr.incImm arg) :: rows ∧
    (0xFFFE : Half).toNat < (pointers 7).cfg.memSize ∧ (pointers 7).mem.read (0xFFFE : Half).toNat ≠ 0xFF ∧
    (pointers 0xFF).mem.read (0xFFFE : Half).toNat = 0xFF ∧ (pointers 0xFF).cfg.incDecEdge = .fault ∧
    (wrapping (pointers 0xFF)).cfg.incDecEdge = .wrap ∧ (pointers 7).cfg.memSize ≤ (0xFFFF : Half).toNat :=
  ⟨.head _, by decide, by decide, by decide, by decide, by decide, by decide⟩

theorem test_witness_IncDecAbsoluteIndexed (s : State) (arg : Half) (rows : List (Half × Byte × Byte × Byte × Instr)) :
    (0x0530#16, s.x, 0xFF#8, 1#8, Instr.incAbsIdx .x arg) ∈
      (0x0530#16, s.x, 0xFF#8, 1#8, Instr.incAbsIdx .x arg) :: rows ∧
    (pointers 7).cfg.extIncDec = true ∧
    (let s : State := { pointers 0xFF with x := 0xFF }
     (0xFEFF : Half).toNat + s.x.toNat < s.cfg.memSize ∧ s.mem.read ((0xFEFF : Half).toNat + s.x.toNat) = 0xFF ∧
     s.mem.read ((0xFEFE : Half).toNat + s.x.toNat) ≠ 0xFF ∧ s.cfg.incDecEdge = .fault ∧
     (wrapping s).cfg.incDecEdge = .wrap ∧ s.cfg.memSize ≤ (0xFF00 : Half).toNat + s.x.toNat) :=
  ⟨.head _, by decide, by decide⟩

theorem test_witness_IncDecIndexedIndirect (arg : Half) (rows : List (Half × Byte × Byte × Instr)) :
    (0x0540#16, 0xFF#8, 1#8, Instr.incIndX arg) ∈ (0x0540#16, 0xFF#8, 1#8, Instr.incIndX arg) :: rows ∧
    (let s : State := { pointers 0xFF with x := 1 }
     s.cfg.extIncDec = true ∧ (0x1F : Half).toNat + s.x.toNat = 0x20 ∧ s.pointerAt 0x20 = 0xFFFE ∧
     0x20 + 1 < s.cfg.memSize ∧ 0xFFFE < s.cfg.memSize ∧ s.mem.read 0xFFFE = 0xFF ∧ s.cfg.incDecEdge = .fault ∧
     (wrapping s).cfg.incDecEdge = .wrap ∧ s.cfg.memSize ≤ s.pointerAt 0x22) ∧
    (pointers 7).mem.read 0xFFFE ≠ 0xFF ∧ (pointers 7).cfg.memSize ≤ 0xFFFE + 1 :=
  ⟨.head _, by decide, by decide, by decide⟩

theorem test_witness_IncDecIndirectIndexed (arg : Half) (rows : List (Half × Byte × Byte × Instr)) :
    (0x0550#16, 0xFF#8, 1#8, Instr.incIndY arg) ∈ (0x0550#16, 0xFF#8, 1#8, Instr.incIndY arg) :: rows ∧
    (let s : State := pointers 0xFF
     s.cfg.extIncDec = true ∧ s.pointerAt (0x20 : Half).toNat + s.y.toNat = 0xFFFE ∧
     (0x20 : Half).toNat + 1 < s.cfg.memSize ∧ 0xFFFE < s.cfg.memSize ∧ s.mem.read 0xFFFE = 0xFF ∧
     s.cfg.incDecEdge = .fault ∧ (wrapping s).cfg.incDecEdge = .wrap ∧
     s.cfg.memSize ≤ s.pointerAt (0x22 : Half).toNat + s.y.toNat ∧ s.cfg.memSize ≤ (0xFFFE : Half).toNat + 1) ∧
    (pointers 7).mem.read 0xFFFE ≠ 0xFF := ⟨.head _, by decide, by decide⟩

theorem test_witness_LogicImmediate (m : Byte) (rows : List (Half × (Byte → Byte → Byte) × Instr)) :
    (0x1010#16, (· &&& ·), Instr.andImm m) ∈ (0x1010#16, (· &&& ·), Instr.andImm m) :: rows ∧
    State.reset.cfg.extAlu = true ∧ 0xFF < (0x100 : Half).toNat := ⟨.head _, by decide, by decide⟩

theorem test_witness_LogicAbsolute (arg : Half) (rows : List (Half × (Byte → Byte → Byte) × Instr)) :
    (0x1020#16, (· &&& ·), Instr.andAbs arg) ∈ (0x1020#16, (· &&& ·), Instr.andAbs arg) :: rows ∧
    State.reset.cfg.extAlu = true ∧ (0xFFFE : Half).toNat < State.reset.cfg.memSize ∧
    State.reset.cfg.memSize ≤ (0xFFFF : Half).toNat := ⟨.head _, by decide, by decide, by decide⟩

theorem test_witness_LogicAbsoluteIndexed (s : State) (arg : Half)
    (rows : List (Half × Byte × (Byte → Byte → Byte) × Instr)) :
    (0x1030#16, s.x, (· &&& ·), Instr.andAbsIdx .x arg) ∈ (0x1030#16, s.x, (· &&& ·), Instr.andAbsIdx .x arg) :: rows ∧
    State.reset.cfg.extAlu = true ∧
    (0xFEFF : Half).toNat + ({ State.reset with x := 0xFF } : State).x.toNat < State.reset.cfg.memSize ∧
    State.reset.cfg.memSize ≤ (0xFF00 : Half).toNat + ({ State.reset with x := 0xFF } : State).x.toNat :=
  ⟨.head _, by decide, by decide, by decide⟩

theorem test_witness_LogicIndexedIndirect (arg : Half) (rows : List (Half × (Byte → Byte → Byte) × Instr)) :
    (0x1040#16, (· &&& ·), Instr.andIndX arg) ∈ (0x1040#16, (· &&& ·), Instr.andIndX arg) :: rows ∧
    (let s : State := { pointers 7 with x := 1 }
     s.cfg.extAlu = true ∧ (0x1F : Half).toNat + s.x.toNat = 0x20 ∧ s.pointerAt 0x20 = 0xFFFE ∧
     0x20 + 1 < s.cfg.memSize ∧ 0xFFFE < s.cfg.memSize ∧ s.cfg.memSize ≤ s.pointerAt 0x22 ∧
     s.cfg.memSize ≤ (0xFFFD : Half).toNat + s.x.toNat + 1) := ⟨.head _, by decide⟩

theorem test_witness_LogicIndirectIndexed (arg : Half) (rows : List (Half × (Byte → Byte → Byte) × Instr)) :
    (0x1050#16, (· &&& ·), Instr.andIndY arg) ∈ (0x1050#16, (· &&& ·), Instr.andIndY arg) :: rows ∧
    (let s : State := pointers 7
     s.cfg.extAlu = true ∧ s.pointerAt (0x20 : Half).toNat + s.y.toNat = 0xFFFE ∧
     (0x20 : Half).toNat + 1 < s.cfg.memSize ∧ 0xFFFE < s.cfg.memSize ∧
     s.cfg.memSize ≤ s.pointerAt (0x22 : Half).toNat + s.y.toNat ∧ s.cfg.memSize ≤ (0xFFFE : Half).toNat + 1) :=
  ⟨.head _, by decide⟩

/-- The hypotheses of the four rows: the first row, and the parameter on. -/
theorem test_witness_ShiftsAndRotates (s : State) (rows : List (CommandWord × Byte × Bool × Instr)) :
    ((0x136000000000 : CommandWord), s.a <<< 1, s.a.msb, Instr.aslAcc) ∈
      ((0x136000000000 : CommandWord), s.a <<< 1, s.a.msb, Instr.aslAcc) :: rows ∧
    State.reset.cfg.extAlu = true := ⟨.head _, by decide⟩

/-- What ROL leaves. -/
def rolled (s : State) : State :=
  (({ s with c := s.a.toNat.testBit 7 } : State).written .a (BitVec.ofNat 8 (rolResult s.a s.c))).answer errOk

/-- Nine ROLs do run one after the other. -/
theorem test_witness_NineRotatesRestoreAccumulatorAndCarry :
    ∃ s : Nat → State, ∀ k, k < 9 → exec .rolAcc (s k) = .next (s (k + 1)) := by
  refine ⟨fun k => Nat.rec { State.reset with a := 0x81 } (fun _ t => rolled t) k, fun k _ => ?_⟩
  show conclude _ (shift _ _ _) = _
  rw [shift_ok _ (rolResult_eq _ _).1]
  rfl

/-- An illegal word, a literal too wide, and SEC: both errors are answered and the third command still sets `C`. -/
theorem test_witness_BlockKeepsAcceptingCommandsAfterErrors :
    let s := withEvents ([0x000000000000, 0x011001000000, 0x080000000000].map HostEvent.command)
    s.cfg.wellFormed = true ∧ ∃ t1 t2 t3, step s = .next t1 ∧ t1.answered 4 ∧ step t1 = .next t2 ∧ t2.answered 1 ∧
      step t2 = .next t3 ∧ t3.answered 0 ∧ t3.c = true ∧ t3.events = [] :=
  ⟨by decide, _, _, _, rfl, rfl, rfl, rfl, rfl, rfl, rfl, rfl⟩

end Sys2Proof.Tests
end

section
/-!
The registers and flags of 10_state.md: the response code a state carries, the states a completed and a failed command
leave, what `Z` and `N` then describe (R16), and the reset values (R23).
-/

namespace Sys2Proof.Machine

/-! ### The response code -/

@[simp] theorem answered_answer (s : State) (e e' : BitVec 3) : (s.answer e).answered e' ↔ e = e' := by
  simp [State.answered]

@[simp] theorem answered_answerData (s : State) (b : Byte) (e : BitVec 3) :
    (s.answerData b).answered e ↔ errOk = e := by
  simp [State.answered]

/-- No error kind shares its code with a completed command (R180). -/
@[simp] theorem errCode_ne_zero (e : Err) : e.code ≠ 0 := by cases e <;> decide

@[simp] theorem reg_answer (s : State) (e : BitVec 3) (r : Reg) : (s.answer e).reg r = s.reg r := by cases r <;> rfl

/-! ### Completed and failed commands -/

variable {i : Instr} {s t : State}

/-- A completed command that writes a register leaves what SetReg leaves, up to `C` and `V` (R14). -/
theorem effect_register_completed {r : Reg} (h : Effect i s t) (hr : i.regWritten = some r) (ht : t.answered 0) :
    ∃ (b : Byte) (c v : Bool), t = (({ s with c := c, v := v } : State).written r b).answer errOk := by
  cases h with
  | data arg hi => subst hi; cases hr
  | register r' b c v hr' =>
    obtain rfl : r' = r := Option.some.inj (hr'.symm.trans hr)
    exact ⟨b, c, v, rfl⟩
  | carry c hr' | memory f arg a b hf hea ha hr' => rw [hr'] at hr; cases hr
  | registerOverflow | memoryOverflow | outOfRange => exact absurd ((answered_answer ..).mp ht) (errCode_ne_zero _)

/-- A command that does not complete leaves only an error's response (R186). -/
theorem effect_failed (h : Effect i s t) (ht : ¬ t.answered 0) : ∃ e : Err, t = s.answer e.code := by
  cases h with
  | data => exact absurd ((answered_answerData ..).mpr rfl) ht
  | register | carry | memory => exact absurd ((answered_answer ..).mpr rfl) ht
  | registerOverflow | memoryOverflow | outOfRange => exact ⟨_, rfl⟩

/-- Only a register write reaches `Z` and `N` (R13). -/
theorem effect_keeps_zn (h : Effect i s t) (hr : i.regWritten = none) : t.z = s.z ∧ t.n = s.n := by
  cases h with
  | register r b c v hr' => rw [hr] at hr'; cases hr'
  | data | carry | memory | registerOverflow | memoryOverflow | outOfRange => exact ⟨rfl, rfl⟩

end Sys2Proof.Machine

open Sys2Proof Sys2Proof.Machine

/-- Settles O20, by what a command can leave: SetReg's `Z` and `N` after a completed register write, the old ones after
an error or a command that writes no register. -/
theorem zAndNDescribeTheLastRegisterWrite : Obligations.ZAndNDescribeTheLastRegisterWrite := by
  unfold Obligations.ZAndNDescribeTheLastRegisterWrite
  intro i s t h
  have he : Effect i s t := effect_of_exec h
  refine ⟨fun r hr ht => ?_, ?_⟩
  · obtain ⟨b, c, v, rfl⟩ := effect_register_completed he hr ht
    simp [reg_written_self]
  · rintro (hr | ht)
    · exact effect_keeps_zn he hr
    · obtain ⟨e, rfl⟩ := effect_failed he ht
      exact ⟨rfl, rfl⟩

/-- Settles O8: the reset state's fields are zero by construction, and its memory lists no cell, so that each reads as
the unlisted byte, 0x00. -/
theorem resetStateIsZero : Obligations.ResetStateIsZero :=
  ⟨rfl, rfl, rfl, rfl, rfl, rfl, rfl, memory_read_nil⟩

end

section
/-!
The mirrored write of 20_memory.md: what a cell reads after a MemWrite of a byte (R32, R33), and what a program may rely
on from it (R34).
-/

namespace Sys2Proof.Machine

variable {s t : State} {a b : Nat} {v : Byte}

/-! ### Cells after a successful MemWrite of a byte -/

theorem memWrite_byte_eq_ok (h : memWrite s a v.toNat = .ok t) : t = s.putMem (s.mem.writeMirrored a v) := by
  obtain ⟨-, -, ha, -⟩ := memWrite_eq_ok h
  rw [memWrite_ok ha] at h
  exact (Except.ok.inj h).symm

/-- A cell the write reaches holds the byte written (R32). -/
theorem memWrite_read_reached (h : memWrite s a v.toNat = .ok t) (hb : WriteReaches a b) : t.mem.read b = v := by
  rw [memWrite_byte_eq_ok h]
  exact (read_writeMirrored s.mem a b v).1 hb

/-- Every other cell holds what it held (R33: a write changes at most two cells). -/
theorem memWrite_read_unreached (h : memWrite s a v.toNat = .ok t) (hb : ¬ WriteReaches a b) :
    t.mem.read b = s.mem.read b := by
  rw [memWrite_byte_eq_ok h]
  exact (read_writeMirrored s.mem a b v).2 hb

/-! ### The cells a write reaches -/

theorem writeReaches_self (a : Nat) : WriteReaches a a := .inl rfl

theorem writeReaches_add (h : a ≤ 0x7FF) : WriteReaches a (a + 0x801) := .inr (.inl ⟨h, rfl⟩)

theorem writeReaches_sub (h : 0x801 ≤ a) (h' : a ≤ 0x2000) : WriteReaches a (a - 0x801) :=
  .inr (.inr ⟨h, h', Nat.sub_add_cancel h⟩)

/-- Outside 0x1002 to 0x1801 a write reaches both cells of a pair or neither (R34, item 3). -/
theorem writeReaches_pair_iff (ha : ¬ (0x1002 ≤ a ∧ a ≤ 0x1801)) (hb : b ≤ 0x7FF) :
    WriteReaches a b ↔ WriteReaches a (b + 0x801) := by
  unfold WriteReaches
  omega

/-- From 0x1002 to 0x1801 the partner is the upper cell of a pair, whose lower cell is not reached (R34, item 3). -/
theorem not_writeReaches_pair_lower (h : 0x1002 ≤ a) : ¬ WriteReaches a (a - 0x1002) := by
  unfold WriteReaches
  omega

/-- From 0x1001 on mirroring is not symmetric: a write to the second cell does not come back (R34, item 4). -/
theorem not_writeReaches_sub_self (h : 0x1001 ≤ a) : ¬ WriteReaches (a - 0x801) a := by
  unfold WriteReaches
  omega

theorem memWrite_keeps_paired (h : memWrite s a v.toNat = .ok t) (ha : ¬ (0x1002 ≤ a ∧ a ≤ 0x1801))
    (hs : s.mem.paired) : t.mem.paired := by
  intro b hb
  by_cases hr : WriteReaches a b
  · have hr' : WriteReaches a (b + 0x801) := (writeReaches_pair_iff ha hb).mp hr
    rw [memWrite_read_reached h hr, memWrite_read_reached h hr']
  · have hr' : ¬ WriteReaches a (b + 0x801) := fun h' => hr ((writeReaches_pair_iff ha hb).mpr h')
    rw [memWrite_read_unreached h hr, memWrite_read_unreached h hr']
    exact hs b hb

end Sys2Proof.Machine

open Sys2Proof Sys2Proof.Machine

/-- Settles O23, by which cells a write reaches: both of a mirrored pair or neither outside 0x1002 to 0x1801, and never
the first cell of a write at 0x1001 to 0x2000 from its second. -/
theorem mirroredPairProperty : Obligations.MirroredPairProperty := by
  unfold Obligations.MirroredPairProperty
  refine ⟨fun _ _ => rfl, fun s t a v h => ⟨fun ha => ?lower, fun h1 h2 => ?upper, memWrite_keeps_paired h,
    fun h1 h2 => ?excepted, fun h1 h2 u v' hu => ?asymmetric⟩⟩
  case lower =>
    exact ⟨memWrite_read_reached h (writeReaches_self a), memWrite_read_reached h (writeReaches_add ha)⟩
  case upper =>
    exact ⟨memWrite_read_reached h (writeReaches_self a), memWrite_read_reached h (writeReaches_sub h1 h2)⟩
  case excepted =>
    have hupper : WriteReaches a (a - 0x801) := writeReaches_sub (by omega) (by omega)
    exact ⟨memWrite_read_reached h hupper, memWrite_read_unreached h (not_writeReaches_pair_lower h1), by omega,
      by omega, by omega⟩
  case asymmetric =>
    rw [memWrite_read_unreached hu (not_writeReaches_sub_self h1)]
    exact memWrite_read_reached h (writeReaches_self a)

end

section
/-!
Which words are commands (30_encoding.md R56 to R58), and what an illegal one is answered (R184): the decoder's
tables and must-be-zero conditions against the nine conditions of R56.
-/

namespace Sys2Proof

open Machine

variable {cfg : Config} {f : Fields}

/-- A decoding that yields a command, of a row the configuration admits (R57, R59). -/
def DecodesIn (cfg : Config) (o : Option Instr) : Prop := ∃ i, o = some i ∧ i.wellFormed cfg = true

@[simp] theorem not_decodesIn_none : ¬ DecodesIn cfg none := fun ⟨_, h, _⟩ => nomatch h

@[simp] theorem decodesIn_some {i : Instr} : DecodesIn cfg (some i) ↔ cfg.admits i.admission = true := by
  simp [DecodesIn, Instr.wellFormed]

theorem exists_decode_iff {w : CommandWord} :
    (∃ i, decode cfg w = some i) ↔ DecodesIn cfg (decodeFields (fieldsOf w)) := by
  simp only [decode_eq_some, DecodesIn]

theorem decodesIn_decodeFields :
    DecodesIn cfg (decodeFields f) ↔ mustBeZero f = true ∧ DecodesIn cfg (decodeOp f) := by
  unfold decodeFields
  split <;> simp [*]

/-! ### The forms of one operation -/

theorem decodesIn_decodeOne {mode : Nat} {i : Instr} :
    DecodesIn cfg (decodeOne f mode i) ↔ f.mode.toNat = mode ∧ cfg.admits i.admission = true := by
  unfold decodeOne
  split <;> simp [*]

theorem decodesIn_decodeThree {imm abs : Half → Instr} {absIdx : Idx → Half → Instr} :
    DecodesIn cfg (decodeThree f imm abs absIdx) ↔
      f.mode.toNat = 1 ∧ cfg.admits (imm f.arg).admission = true
        ∨ f.mode.toNat = 2 ∧ cfg.admits (abs f.arg).admission = true
        ∨ f.mode.toNat = 3 ∧ cfg.admits (absIdx (idxOfBit f.idx) f.arg).admission = true := by
  unfold decodeThree
  split <;> simp_all

theorem decodesIn_decodeFive {imm abs indX indY : Half → Instr} {absIdx : Idx → Half → Instr} :
    DecodesIn cfg (decodeFive f imm abs absIdx indX indY) ↔
      f.mode.toNat = 1 ∧ cfg.admits (imm f.arg).admission = true
        ∨ f.mode.toNat = 2 ∧ cfg.admits (abs f.arg).admission = true
        ∨ f.mode.toNat = 3 ∧ cfg.admits (absIdx (idxOfBit f.idx) f.arg).admission = true
        ∨ f.mode.toNat = 4 ∧ cfg.admits (indX f.arg).admission = true
        ∨ f.mode.toNat = 5 ∧ cfg.admits (indY f.arg).admission = true := by
  unfold decodeFive
  split <;> simp_all

/-- LOAD of any register, in any of the five forms. -/
theorem decodesIn_decodeLoad :
    DecodesIn cfg (decodeLoad f) ↔ f.reg.toNat ≠ 3 ∧ 1 ≤ f.mode.toNat ∧ f.mode.toNat ≤ 5 := by
  have hreg : f.reg.toNat < 4 := f.reg.isLt
  unfold decodeLoad
  interval_cases f.reg.toNat <;> simp [decodesIn_decodeFive, Instr.admission, Config.admits] <;> omega

/-- STORE of any register, in any form but the indirect ones of X and Y (R58). -/
theorem decodesIn_decodeStore :
    DecodesIn cfg (decodeStore f) ↔ f.reg.toNat ≠ 3 ∧ (1 ≤ f.mode.toNat ∧ f.mode.toNat ≤ 5) ∧
      ¬ ((f.reg.toNat = 1 ∨ f.reg.toNat = 2) ∧ (f.mode.toNat = 4 ∨ f.mode.toNat = 5)) := by
  have hreg : f.reg.toNat < 4 := f.reg.isLt
  unfold decodeStore
  interval_cases f.reg.toNat <;>
    simp [decodesIn_decodeFive, decodesIn_decodeThree, Instr.admission, Config.admits] <;> omega

/-! ### The nine conditions -/

/-- The decoder's tables hold conditions 1, 2 and 9 of R56, and of condition 4 that `reg` is not 3. -/
theorem decodesIn_decodeOp :
    DecodesIn cfg (decodeOp f) ↔ formAdmitted cfg f.op.toNat f.mode.toNat ∧
      (f.op = 0x01 ∨ f.op = 0x02 → f.reg ≠ 3) ∧
      ¬ (f.op = 0x02 ∧ (f.reg = 1 ∨ f.reg = 2) ∧ (f.mode = 4 ∨ f.mode = 5)) := by
  unfold decodeOp
  simp only [ne_eq, ← BitVec.toNat_inj]
  split
  case h_1 hop => simp [decodesIn_decodeLoad, formAdmitted, hop, and_comm]
  case h_2 hop => simp [decodesIn_decodeStore, formAdmitted, hop, and_left_comm]
  case h_18 => simp_all [formAdmitted]
  case h_7 hop | h_8 hop | h_12 hop | h_13 hop | h_14 hop | h_15 hop | h_16 hop | h_17 hop =>
    simp [decodesIn_decodeOne, formAdmitted, hop, Instr.admission, Config.admits]
  case h_3 hop | h_4 hop | h_5 hop | h_6 hop | h_9 hop | h_10 hop | h_11 hop =>
    simp only [decodesIn_decodeFive, formAdmitted, hop, Instr.admission, Config.admits]
    grind

theorem byteLiteral_iff {op : BitVec 8} : byteLiteral op = true ↔ op.toNat ∈ [0x03, 0x04, 0x10, 0x11, 0x12] := by
  simp [byteLiteral, ← BitVec.toNat_inj, or_assoc]

/-- The decoder's must-be-zero check is conditions 3 to 8 of R56, but for `reg` not being 3. -/
theorem mustBeZero_iff : mustBeZero f = true ↔ f.rsv = 0 ∧ (f.reg = 0 ∨ f.op = 0x01 ∨ f.op = 0x02) ∧
    (f.idx = 0 ∨ f.mode = 3) ∧ (f.val = 0 ∨ f.op = 0x21) ∧ (f.mode = 0 ∨ f.mode = 6 → f.arg = 0) ∧
    (f.mode = 1 → f.op.toNat ∈ [0x03, 0x04, 0x10, 0x11, 0x12] → f.arg.extractLsb' 8 8 = 0) := by
  simp only [mustBeZero, Bool.and_eq_true, Bool.or_eq_true, beq_iff_eq, Bool.not_eq_true', Bool.and_eq_false_imp,
    ← byteLiteral_iff, or_comm, and_assoc]
  grind

theorem formAdmitted_op {op mode : Nat} (h : formAdmitted cfg op mode) :
    op ∈ [0x01, 0x02, 0x03, 0x04, 0x05, 0x06, 0x07, 0x08, 0x10, 0x11, 0x12, 0x13, 0x14, 0x15, 0x16, 0x20, 0x21] := by
  rcases h with ⟨h, -⟩ | ⟨rfl, -⟩ | ⟨rfl, -⟩ | ⟨h, -⟩ | ⟨h, -⟩ | ⟨h, -⟩ | ⟨h, -⟩
  case inr.inl | inr.inr.inl => decide
  all_goals exact List.subset_def.mp (by decide) h

/-- The high byte of a word's `arg` field, read from the word. -/
theorem arg_high_fieldsOf (w : CommandWord) : (fieldsOf w).arg.extractLsb' 8 8 = w.extractLsb' 24 8 := by
  apply BitVec.eq_of_getLsbD_eq
  intro i hi
  have hbit : 8 + i < 16 := by omega
  simp [fieldsOf, hi, hbit, ← Nat.add_assoc]

/-- The nine conditions of R56 are the decoder's must-be-zero check and its tables. -/
theorem legalWord_iff {w : CommandWord} : LegalWord cfg w ↔ DecodesIn cfg (decodeFields (fieldsOf w)) := by
  rw [decodesIn_decodeFields, mustBeZero_iff, decodesIn_decodeOp, arg_high_fieldsOf]
  constructor
  · rintro ⟨-, form, rsv, ⟨reg3, reg⟩, idx, val, arg, literal, refused⟩
    exact ⟨⟨rsv, reg, idx, val, arg, literal⟩, form, fun _ => reg3, refused⟩
  · rintro ⟨⟨rsv, reg, idx, val, arg, literal⟩, form, reg3, refused⟩
    have hreg : (fieldsOf w).reg ≠ 3 := reg.elim (fun h => h ▸ by decide) reg3
    exact ⟨formAdmitted_op form, form, rsv, ⟨hreg, reg⟩, idx, val, arg, literal, refused⟩

end Sys2Proof

namespace Sys2Proof.Machine

/-- A waiting word that is no command is answered `IllegalCommand`, and only the response port changes (R184, R186). -/
theorem step_undecoded {s : State} {w : CommandWord} {es : List HostEvent} (hw : s.cfg.wellFormed = true)
    (he : s.events = .command w :: es) (hd : decode s.cfg w = none) :
    step s = .next ((s.putEvents es).answer Err.illegalCommand.code) := by
  have hd' : decode (s.putEvents es).cfg w = none := hd
  rw [step_event hw he, runEvent, runCommand, hd', raiseError]

end Sys2Proof.Machine

open Sys2Proof Sys2Proof.Machine

/-- Settles O3, by the nine conditions being what the decoder checks, and by the one step an undecoded word takes. -/
theorem legalExactlyWhenNineConditionsHold : Obligations.LegalExactlyWhenNineConditionsHold := by
  unfold Obligations.LegalExactlyWhenNineConditionsHold
  have hlegal (cfg : Config) (w : CommandWord) : (∃ i, decode cfg w = some i) ↔ LegalWord cfg w :=
    exists_decode_iff.trans legalWord_iff.symm
  refine ⟨hlegal, fun s w es hw he hl => ?_⟩
  have hd : decode s.cfg w = none := by
    rw [← hlegal, ← Option.isSome_iff_exists, Option.not_isSome_iff_eq_none] at hl
    exact hl
  exact ⟨_, _, step_undecoded hw he hd⟩

end

section
/-!
Host access of 40_host_memory_access.md: the words of MEMRD and MEMWR (R70, R71), and what each command does at a valid
address, past `MEM_SIZE`, and with a value wider than a byte.
-/

namespace Sys2Proof

/-! ### The words of the two commands -/

/-- A word from its upper half and its two 16-bit fields (R50). -/
theorem pack_eq_append {op : BitVec 8} {mode : BitVec 4} {reg : BitVec 2} {idx rsv : BitVec 1} {head : Half}
    (h : op ++ mode ++ reg ++ idx ++ rsv = head) (arg val : Half) :
    pack ⟨op, mode, reg, idx, rsv, arg, val⟩ = head ++ arg ++ val := by
  rw [pack, h]

theorem encode_memrd (arg : Half) : encode (.memrd arg) = 0x2020#16 ++ arg ++ 0#16 :=
  pack_eq_append (by decide) arg 0

theorem encode_memwr (arg val : Half) : encode (.memwr arg val) = 0x2120#16 ++ arg ++ val :=
  pack_eq_append (by decide) arg val

theorem decode_memrd (cfg : Config) (arg : Half) : decode cfg (0x2020#16 ++ arg ++ 0#16) = some (.memrd arg) := by
  rw [← encode_memrd]
  exact Laws.RoundTrip.memrd arg cfg rfl

theorem decode_memwr (cfg : Config) (arg val : Half) :
    decode cfg (0x2120#16 ++ arg ++ val) = some (.memwr arg val) := by
  rw [← encode_memwr]
  exact Laws.RoundTrip.memwr arg val cfg rfl

end Sys2Proof

namespace Sys2Proof.Machine

variable {s : State} {arg val : Half}

/-! ### MEMRD -/

theorem exec_memrd (arg : Half) (s : State) : exec (.memrd arg) s = execMemrd arg s := rfl

theorem exec_memrd_ok (h : arg.toNat < s.cfg.memSize) :
    exec (.memrd arg) s = .next (s.answerData (s.mem.read arg.toNat)) := by
  rw [exec_memrd, execMemrd, memRead_ok h]

theorem exec_memrd_outOfRange (h : s.cfg.memSize ≤ arg.toNat) : exec (.memrd arg) s = raiseError .outOfRange s := by
  rw [exec_memrd, execMemrd, memRead_outOfRange h]

/-! ### MEMWR -/

theorem exec_memwr (arg val : Half) (s : State) :
    exec (.memwr arg val) s = conclude s (memWrite s arg.toNat val.toNat) := rfl

/-- A value that fits in a cell is written whole (R71). -/
theorem memWrite_half_ok (hv : val.toNat ≤ 0xFF) (ha : arg.toNat < s.cfg.memSize) :
    memWrite s arg.toNat val.toNat = .ok (s.putMem (s.mem.writeMirrored arg.toNat (val.setWidth 8))) := by
  have hval : (val.setWidth 8).toNat = val.toNat := by
    rw [BitVec.toNat_setWidth, Nat.mod_eq_of_lt (by omega)]
  rw [← hval]
  exact memWrite_ok ha (val.setWidth 8)

end Sys2Proof.Machine

open Sys2Proof Sys2Proof.Machine

/-- Settles O26, by MemWrite's three outcomes, in the order of its checks: the value, then the address (R32). -/
theorem memwrWritesTheCellAndItsMirror : Obligations.MemwrWritesTheCellAndItsMirror := by
  unfold Obligations.MemwrWritesTheCellAndItsMirror
  intro s arg val
  refine ⟨decode_memwr s.cfg arg val, fun hv ha => ?stored, fun hv => ?wideValue, fun hv ha => ?outOfRange⟩
  case stored => exact answersStore_of_ok (exec_memwr arg val s) (memWrite_half_ok hv ha)
  case wideValue => exact answers_of_error (exec_memwr arg val s) (memWrite_overflow (.inr (by omega)))
  case outOfRange => exact answers_of_error (exec_memwr arg val s) (memWrite_outOfRange (by omega) (by omega) ha)

/-- Settles O25, by MemRead's two outcomes, neither of which changes the state but for the response. -/
theorem memrdReturnsTheCell : Obligations.MemrdReturnsTheCell := by
  unfold Obligations.MemrdReturnsTheCell
  intro s arg
  refine ⟨decode_memrd s.cfg arg, fun ha => ?read, fun ha => ?outOfRange⟩
  case read => exact ⟨s.freeCtr, exec_memrd_ok ha⟩
  case outOfRange => exact ⟨_, _, exec_memrd_outOfRange ha⟩

end

section
/-!
LOAD and STORE of 41_load_store.md (R80, R81): the word of each register and form, when an effective address names no
cell, and what a command then answers.
-/

namespace Sys2Proof

/-! ### The words of LOAD and STORE -/

/-- The `mode` field's values (R52). -/
def Form.mode : Form → BitVec 4
  | .imm => 1
  | .abs => 2
  | .absIdx _ => 3
  | .indX => 4
  | .indY => 5

/-- The `idx` field, which only the absolute-indexed form uses (R54). -/
def Form.idxBit : Form → BitVec 1
  | .absIdx i => i.bit
  | .imm | .abs | .indX | .indY => 0

/-- The `reg` field's values (R53). -/
def Reg.code : Reg → BitVec 2
  | .a => 0
  | .x => 1
  | .y => 2

/-- The fields of an operation on a register through a form (R50). -/
def regFields (op : BitVec 8) (r : Reg) (f : Form) (arg : Half) : Fields where
  op := op
  mode := f.mode
  reg := r.code
  idx := f.idxBit
  rsv := 0
  arg := arg
  val := 0

/-- The upper halfword of such a command (R50). -/
def regHead (op : BitVec 8) (r : Reg) (f : Form) : Half := op ++ f.mode ++ r.code ++ f.idxBit ++ 0#1

/-- The command of a form, from the commands of each (R52), as `decodeFive` takes them. -/
def Form.pick (imm abs : Half → Instr) (absIdx : Idx → Half → Instr) (indX indY : Half → Instr) : Form → Half → Instr
  | .imm => imm
  | .abs => abs
  | .absIdx i => absIdx i
  | .indX => indX
  | .indY => indY

/-- LOAD of a register through a form (R57). -/
def loadInstr : Reg → Form → Half → Instr
  | .a => Form.pick .ldaImm .ldaAbs .ldaAbsIdx .ldaIndX .ldaIndY
  | .x => Form.pick .ldxImm .ldxAbs .ldxAbsIdx .ldxIndX .ldxIndY
  | .y => Form.pick .ldyImm .ldyAbs .ldyAbsIdx .ldyIndX .ldyIndY

/-- STORE of a register through a form; STX and STY have no indirect form (R57, R58). -/
def storeInstr : Reg → Form → Half → Option Instr
  | .a, f, arg => some (f.pick .staImm .staAbs .staAbsIdx .staIndX .staIndY arg)
  | .x, .imm, arg => some (.stxImm arg)
  | .x, .abs, arg => some (.stxAbs arg)
  | .x, .absIdx i, arg => some (.stxAbsIdx i arg)
  | .y, .imm, arg => some (.styImm arg)
  | .y, .abs, arg => some (.styAbs arg)
  | .y, .absIdx i, arg => some (.styAbsIdx i arg)
  | .x, .indX, _ | .x, .indY, _ | .y, .indX, _ | .y, .indY, _ => none

theorem pack_regFields (op : BitVec 8) (r : Reg) (f : Form) (arg : Half) :
    pack (regFields op r f arg) = regHead op r f ++ arg ++ 0#16 := pack_eq_append rfl arg 0

theorem decodeFive_regFields (op : BitVec 8) (r : Reg) (f : Form) (arg : Half) (imm abs indX indY : Half → Instr)
    (absIdx : Idx → Half → Instr) :
    decodeFive (regFields op r f arg) imm abs absIdx indX indY = some (f.pick imm abs absIdx indX indY arg) := by
  cases f with
  | absIdx i => exact congrArg (fun k => some (absIdx k arg)) (idxOfBit_bit i)
  | imm | abs | indX | indY => rfl

/-- Every field that must be zero is (R56). -/
theorem mustBeZero_regFields {op : BitVec 8} (hop : op = 0x01 ∨ op = 0x02) (r : Reg) (f : Form) (arg : Half) :
    mustBeZero (regFields op r f arg) = true := by
  rcases hop with rfl | rfl <;> cases f <;> rfl

/-- A LOAD's word decodes to it (R57). -/
theorem decode_loadWord (cfg : Config) (r : Reg) (f : Form) (arg : Half) :
    decode cfg (regHead 0x01 r f ++ arg ++ 0#16) = some (loadInstr r f arg) := by
  have hop : decodeOp (regFields 0x01 r f arg) = some (loadInstr r f arg) := by
    cases r <;> exact decodeFive_regFields ..
  have hadm : (loadInstr r f arg).wellFormed cfg = true := by cases r <;> cases f <;> rfl
  rw [← pack_regFields]
  exact decode_pack (by rw [decodeFields, if_pos (mustBeZero_regFields (.inl rfl) r f arg), hop]) hadm

/-- A STORE's word decodes to it (R57). -/
theorem decode_storeWord (cfg : Config) {r : Reg} {f : Form} {arg : Half} {i : Instr}
    (h : storeInstr r f arg = some i) : decode cfg (regHead 0x02 r f ++ arg ++ 0#16) = some i := by
  have hop : decodeOp (regFields 0x02 r f arg) = some i := by
    rw [← h]
    cases r <;> rcases f with _ | _ | ⟨_ | _⟩ | _ | _ <;> rfl
  have hadm : i.wellFormed cfg = true := by
    cases r <;> cases f <;> cases h <;> rfl
  rw [← pack_regFields]
  exact decode_pack (by rw [decodeFields, if_pos (mustBeZero_regFields (.inr rfl) r f arg), hop]) hadm

end Sys2Proof

namespace Sys2Proof.Machine

variable {s : State} {r : Reg} {f : Form} {arg : Half} {i : Instr} {a : Nat}

/-! ### When an effective address names no cell -/

theorem addressFails_of_ok (h : ea f arg s = .ok a) : s.addressFails f arg ↔ s.cfg.memSize ≤ a := by
  simp [State.addressFails, h]

theorem addressFails_of_error {e : Err} (h : ea f arg s = .error e) : s.addressFails f arg := by
  simp [State.addressFails, h]

/-- The pointer's cells are checked first, then the pointer (R85). -/
theorem addressFails_indX (h : s.cfg.memSize ≤ arg.toNat + s.x.toNat + 1 ∨
    s.cfg.memSize ≤ s.pointerAt (arg.toNat + s.x.toNat)) : s.addressFails .indX arg := by
  by_cases hp : arg.toNat + s.x.toNat + 1 < s.cfg.memSize
  · exact (addressFails_of_ok (ea_indX_ok hp)).mpr (h.resolve_left (by omega))
  · exact addressFails_of_error (ea_indX_outOfRange (by omega))

/-- The pointer's cells are checked first, then the pointer plus Y (R86). -/
theorem addressFails_indY (h : s.cfg.memSize ≤ arg.toNat + 1 ∨
    s.cfg.memSize ≤ s.pointerAt arg.toNat + s.y.toNat) : s.addressFails .indY arg := by
  by_cases hp : arg.toNat + 1 < s.cfg.memSize
  · exact (addressFails_of_ok (ea_indY_ok hp)).mpr (h.resolve_left (by omega))
  · exact addressFails_of_error (ea_indY_outOfRange (by omega))

/-! ### What LOAD answers -/

theorem exec_loadInstr (r : Reg) (f : Form) (arg : Half) (s : State) :
    exec (loadInstr r f arg) s = conclude s (load r f arg s) := by
  cases r <;> cases f <;> rfl

theorem answers_load (r : Reg) (hf : f ≠ .imm) (hea : ea f arg s = .ok a) (ha : a < s.cfg.memSize) :
    Answers (loadInstr r f arg) s 0 (s.written r (s.mem.read a)) :=
  answers_of_ok (exec_loadInstr r f arg s) (load_ok hf hea ha)

theorem answers_load_outOfRange (r : Reg) (hf : f ≠ .imm) (h : s.addressFails f arg) :
    Answers (loadInstr r f arg) s 3 s :=
  answers_of_error (exec_loadInstr r f arg s) (load_outOfRange hf h)

/-! ### What STORE answers -/

theorem exec_storeInstr (h : storeInstr r f arg = some i) (s : State) :
    exec i s = conclude s (store r f arg s) := by
  cases r <;> cases f <;> cases h <;> rfl

theorem answersStore_store (h : storeInstr r f arg = some i) (hea : ea f arg s = .ok a) (ha : a < s.cfg.memSize) :
    AnswersStore i s a (s.reg r) :=
  answersStore_of_ok (exec_storeInstr h s) (store_ok hea ha)

theorem answers_store_outOfRange (h : storeInstr r f arg = some i) (hf : s.addressFails f arg) : Answers i s 3 s :=
  answers_of_error (exec_storeInstr h s) (store_outOfRange hf)

/-! ### The rows of the statements' lists -/

/-- A row of a list made from the three registers is the row of its register. -/
theorem loadRow_of_mem {f : Form} {arg head : Half} {r : Reg} {i : Instr}
    (h : (head, r, i) ∈ [Reg.a, .x, .y].map fun r => (regHead 0x01 r f, r, loadInstr r f arg)) :
    head = regHead 0x01 r f ∧ i = loadInstr r f arg := by
  obtain ⟨r', -, h⟩ := List.mem_map.mp h
  cases h
  exact ⟨rfl, rfl⟩

/-- A row of a list made from the three registers and the two index registers is the row of its registers. -/
theorem loadIndexedRow_of_mem {s : State} {arg head : Half} {off : Byte} {r : Reg} {i : Instr}
    (h : (head, off, r, i) ∈ [Reg.a, .x, .y].flatMap fun r => [Idx.x, .y].map fun k =>
      (regHead 0x01 r (.absIdx k), s.index k, r, loadInstr r (.absIdx k) arg)) :
    ∃ k, head = regHead 0x01 r (.absIdx k) ∧ off = s.index k ∧ i = loadInstr r (.absIdx k) arg := by
  obtain ⟨r', -, h⟩ := List.mem_flatMap.mp h
  obtain ⟨k, -, h⟩ := List.mem_map.mp h
  cases h
  exact ⟨k, rfl, rfl, rfl⟩

end Sys2Proof.Machine

open Sys2Proof Sys2Proof.Machine

/-- Settles O27, by SetReg's value check: a literal of one byte is written, a wider one is RegisterOverflow (R14). -/
theorem loadImmediateSetsTheRegister : Obligations.LoadImmediateSetsTheRegister := by
  unfold Obligations.LoadImmediateSetsTheRegister
  intro s arg head r i h
  obtain ⟨rfl, rfl⟩ : head = regHead 0x01 r .imm ∧ i = loadInstr r .imm arg := loadRow_of_mem h
  refine ⟨decode_loadWord s.cfg r .imm arg, fun hv => ?byteLiteral, fun hv => ?wideLiteral⟩
  case byteLiteral => exact answers_of_ok (exec_loadInstr r .imm arg s) (load_imm_ok r s hv)
  case wideLiteral => exact answers_of_error (exec_loadInstr r .imm arg s) (setReg_overflow s r hv)

/-- Settles O28: the effective address is `arg`, which names a cell or does not. -/
theorem loadAbsoluteReadsTheCell : Obligations.LoadAbsoluteReadsTheCell := by
  unfold Obligations.LoadAbsoluteReadsTheCell
  intro s arg head r i h
  obtain ⟨rfl, rfl⟩ : head = regHead 0x01 r .abs ∧ i = loadInstr r .abs arg := loadRow_of_mem h
  have hea : ea .abs arg s = .ok arg.toNat := ea_abs arg s
  exact ⟨decode_loadWord s.cfg r .abs arg, answers_load r nofun hea,
    fun ha => answers_load_outOfRange r nofun ((addressFails_of_ok hea).mpr ha)⟩

/-- Settles O29: the effective address is `arg` plus the index register, which names a cell or does not. -/
theorem loadAbsoluteIndexedReadsTheCell : Obligations.LoadAbsoluteIndexedReadsTheCell := by
  unfold Obligations.LoadAbsoluteIndexedReadsTheCell
  intro s arg head off r i h
  obtain ⟨k, rfl, rfl, rfl⟩ : ∃ k, head = regHead 0x01 r (.absIdx k) ∧ off = s.index k ∧
      i = loadInstr r (.absIdx k) arg := loadIndexedRow_of_mem h
  have hea : ea (.absIdx k) arg s = .ok (arg.toNat + (s.index k).toNat) := ea_absIdx k arg s
  exact ⟨decode_loadWord s.cfg r (.absIdx k) arg, answers_load r nofun hea,
    fun ha => answers_load_outOfRange r nofun ((addressFails_of_ok hea).mpr ha)⟩

/-- Settles O30: the effective address is the pointer at `arg` + X, when both its cells exist. -/
theorem loadIndexedIndirectReadsTheCell : Obligations.LoadIndexedIndirectReadsTheCell := by
  unfold Obligations.LoadIndexedIndirectReadsTheCell
  intro s arg head r i h
  obtain ⟨rfl, rfl⟩ : head = regHead 0x01 r .indX ∧ i = loadInstr r .indX arg := loadRow_of_mem h
  exact ⟨decode_loadWord s.cfg r .indX arg, fun hp => answers_load r nofun (ea_indX_ok hp),
    fun hf => answers_load_outOfRange r nofun (addressFails_indX hf)⟩

/-- Settles O31: the effective address is the pointer at `arg`, plus Y, when both its cells exist. -/
theorem loadIndirectIndexedReadsTheCell : Obligations.LoadIndirectIndexedReadsTheCell := by
  unfold Obligations.LoadIndirectIndexedReadsTheCell
  intro s arg head r i h
  obtain ⟨rfl, rfl⟩ : head = regHead 0x01 r .indY ∧ i = loadInstr r .indY arg := loadRow_of_mem h
  exact ⟨decode_loadWord s.cfg r .indY arg, fun hp => answers_load r nofun (ea_indY_ok hp),
    fun hf => answers_load_outOfRange r nofun (addressFails_indY hf)⟩

/-- Settles O32: in the IMM form as in the ABS form the effective address is `arg` (R49). -/
theorem storeAtTheAddress : Obligations.StoreAtTheAddress := by
  unfold Obligations.StoreAtTheAddress
  intro s arg head v i h
  obtain ⟨r, f, hea, hi, rfl, rfl⟩ : ∃ r f, ea f arg s = .ok arg.toNat ∧ storeInstr r f arg = some i ∧
      head = regHead 0x02 r f ∧ v = s.reg r := by
    simp only [List.mem_cons, Prod.mk.injEq, List.not_mem_nil, or_false] at h
    rcases h with ⟨rfl, rfl, rfl⟩ | ⟨rfl, rfl, rfl⟩ | ⟨rfl, rfl, rfl⟩ | ⟨rfl, rfl, rfl⟩ | ⟨rfl, rfl, rfl⟩ |
      ⟨rfl, rfl, rfl⟩
    · exact ⟨.a, .imm, rfl, rfl, rfl, rfl⟩
    · exact ⟨.a, .abs, rfl, rfl, rfl, rfl⟩
    · exact ⟨.x, .imm, rfl, rfl, rfl, rfl⟩
    · exact ⟨.x, .abs, rfl, rfl, rfl, rfl⟩
    · exact ⟨.y, .imm, rfl, rfl, rfl, rfl⟩
    · exact ⟨.y, .abs, rfl, rfl, rfl, rfl⟩
  exact ⟨decode_storeWord s.cfg hi, answersStore_store hi hea,
    fun ha => answers_store_outOfRange hi ((addressFails_of_ok hea).mpr ha)⟩

/-- Settles O33: the effective address is `arg` plus the index register, which names a cell or does not. -/
theorem storeAbsoluteIndexed : Obligations.StoreAbsoluteIndexed := by
  unfold Obligations.StoreAbsoluteIndexed
  intro s arg head off v i h
  obtain ⟨r, k, hi, rfl, rfl, rfl⟩ : ∃ r k, storeInstr r (.absIdx k) arg = some i ∧
      head = regHead 0x02 r (.absIdx k) ∧ off = s.index k ∧ v = s.reg r := by
    simp only [List.mem_cons, Prod.mk.injEq, List.not_mem_nil, or_false] at h
    rcases h with ⟨rfl, rfl, rfl, rfl⟩ | ⟨rfl, rfl, rfl, rfl⟩ | ⟨rfl, rfl, rfl, rfl⟩ | ⟨rfl, rfl, rfl, rfl⟩ |
      ⟨rfl, rfl, rfl, rfl⟩ | ⟨rfl, rfl, rfl, rfl⟩
    · exact ⟨.a, .x, rfl, rfl, rfl, rfl⟩
    · exact ⟨.a, .y, rfl, rfl, rfl, rfl⟩
    · exact ⟨.x, .x, rfl, rfl, rfl, rfl⟩
    · exact ⟨.x, .y, rfl, rfl, rfl, rfl⟩
    · exact ⟨.y, .x, rfl, rfl, rfl, rfl⟩
    · exact ⟨.y, .y, rfl, rfl, rfl, rfl⟩
  have hea : ea (.absIdx k) arg s = .ok (arg.toNat + (s.index k).toNat) := ea_absIdx k arg s
  exact ⟨decode_storeWord s.cfg hi, answersStore_store hi hea,
    fun ha => answers_store_outOfRange hi ((addressFails_of_ok hea).mpr ha)⟩

/-- Settles O34: the effective address is the pointer at `arg` + X, when both its cells exist. -/
theorem storeIndexedIndirect : Obligations.StoreIndexedIndirect := by
  unfold Obligations.StoreIndexedIndirect
  intro s arg
  have hi : storeInstr .a .indX arg = some (.staIndX arg) := rfl
  have hhead : regHead 0x02 .a .indX = 0x0240#16 := rfl
  rw [← hhead]
  exact ⟨decode_storeWord s.cfg hi, fun hp => answersStore_store hi (ea_indX_ok hp),
    fun hf => answers_store_outOfRange hi (addressFails_indX hf)⟩

/-- Settles O35: the effective address is the pointer at `arg`, plus Y, when both its cells exist. -/
theorem storeIndirectIndexed : Obligations.StoreIndirectIndexed := by
  unfold Obligations.StoreIndirectIndexed
  intro s arg
  have hi : storeInstr .a .indY arg = some (.staIndY arg) := rfl
  have hhead : regHead 0x02 .a .indY = 0x0250#16 := rfl
  rw [← hhead]
  exact ⟨decode_storeWord s.cfg hi, fun hp => answersStore_store hi (ea_indY_ok hp),
    fun hf => answers_store_outOfRange hi (addressFails_indY hf)⟩

end

section
/-!
ADC and SBC of 42_adc_sbc.md (R112): the word of each operation and form, which literals make a word illegal, and what
a command then answers.
-/

namespace Sys2Proof

variable {cfg : Config} {op : BitVec 8} {f : Form} {arg : Half} {i : Instr}

/-! ### Words without a register field -/

/-- With `reg` zero only a literal can break a must-be-zero condition of R56. -/
theorem mustBeZero_regFields_a (op : BitVec 8) (h : f = .imm → arg.extractLsb' 8 8 = 0) :
    mustBeZero (regFields op .a f arg) = true := by
  cases f with
  | imm => simp [mustBeZero, regFields, Reg.code, Form.idxBit, Form.mode, h rfl]
  | abs | absIdx | indX | indY => simp [mustBeZero, regFields, Reg.code, Form.idxBit, Form.mode]

/-- A word of an operation whose `reg` field is zero decodes as its tables say (R57). -/
theorem decode_regHead_a (hop : decodeOp (regFields op .a f arg) = some i)
    (hz : f = .imm → arg.extractLsb' 8 8 = 0) (hadm : i.wellFormed cfg = true) :
    decode cfg (regHead op .a f ++ arg ++ 0#16) = some i := by
  rw [← pack_regFields]
  exact decode_pack (by rw [decodeFields, if_pos (mustBeZero_regFields_a op hz), hop]) hadm

/-- A field that must be zero and is not makes the word illegal (R56). -/
theorem decode_pack_eq_none {f : Fields} (h : mustBeZero f = false) : decode cfg (pack f) = none := by
  simp [decode, fieldsOf_pack, decodeFields, h]

/-- A 16-bit field above 0xFF has a high byte. -/
theorem extract_high_ne_zero (h : 0xFF < arg.toNat) : arg.extractLsb' 8 8 ≠ 0 := by
  intro hz
  have hlt : ((arg.setWidth 8).setWidth 16 : Half).toNat ≤ 0xFF := by
    rw [BitVec.toNat_setWidth, BitVec.toNat_setWidth]
    omega
  rw [setWidth_of_extract_high hz] at hlt
  omega

/-- A literal above 0xFF is illegal where a literal is one byte (R56 condition 8). -/
theorem decode_wideLiteral (hop : byteLiteral op = true) (h : 0xFF < arg.toNat) :
    decode cfg (regHead op .a .imm ++ arg ++ 0#16) = none := by
  have hz : mustBeZero (regFields op .a .imm arg) = false := by
    have hhigh : arg.extractLsb' 8 8 ≠ 0 := extract_high_ne_zero h
    simpa [mustBeZero, regFields, Form.mode, hop] using fun _ _ => hhigh
  rw [← pack_regFields]
  exact decode_pack_eq_none hz

/-! ### The words of ADC and SBC -/

/-- The two operations of 42_adc_sbc.md. -/
inductive ArithOp where
  | adc
  | sbc

/-- The `op` field's values (R51). -/
def ArithOp.code : ArithOp → BitVec 8
  | .adc => 0x03
  | .sbc => 0x04

/-- ADC or SBC through a form; of a literal's field it keeps the low byte (R112). -/
def ArithOp.instr : ArithOp → Form → Half → Instr
  | .adc => Form.pick (fun arg => .adcImm (arg.setWidth 8)) .adcAbs .adcAbsIdx .adcIndX .adcIndY
  | .sbc => Form.pick (fun arg => .sbcImm (arg.setWidth 8)) .sbcAbs .sbcAbsIdx .sbcIndX .sbcIndY

/-- ADC or SBC of a literal byte (R113, R118). -/
def ArithOp.literal : ArithOp → Byte → Instr
  | .adc => .adcImm
  | .sbc => .sbcImm

/-- A byte survives the literal's field (R55). -/
theorem arithInstr_literal (o : ArithOp) (m : Byte) : o.instr .imm (m.setWidth 16) = o.literal m := by
  cases o <;> exact congrArg _ (setWidth_byte_half m)

/-- The word of an ADC or an SBC decodes to it, unless its literal is wider than a byte (R57). -/
theorem decode_arithWord (cfg : Config) (o : ArithOp) (f : Form) (arg : Half)
    (hz : f = .imm → arg.extractLsb' 8 8 = 0) :
    decode cfg (regHead o.code .a f ++ arg ++ 0#16) = some (o.instr f arg) := by
  have hop : decodeOp (regFields o.code .a f arg) = some (o.instr f arg) := by
    cases o with
    | adc => exact decodeFive_regFields 0x03 .a f arg (fun arg => .adcImm (arg.setWidth 8)) _ _ _ _
    | sbc => exact decodeFive_regFields 0x04 .a f arg (fun arg => .sbcImm (arg.setWidth 8)) _ _ _ _
  have hadm : (o.instr f arg).wellFormed cfg = true := by cases o <;> cases f <;> rfl
  exact decode_regHead_a hop hz hadm

theorem decode_arithWord_literal (cfg : Config) (o : ArithOp) (m : Byte) :
    decode cfg (regHead o.code .a .imm ++ m.setWidth 16 ++ 0#16) = some (o.literal m) := by
  rw [← arithInstr_literal]
  exact decode_arithWord cfg o .imm _ fun _ => extract_high_of_byte m

theorem byteLiteral_arithCode (o : ArithOp) : byteLiteral o.code = true := by cases o <;> rfl

end Sys2Proof

namespace Sys2Proof.Machine

variable {s : State} {o : ArithOp} {f : Form} {arg : Half} {a : Nat} {m : Byte}

/-! ### What ADC and SBC answer -/

/-- The shared meaning of an operation's forms. -/
def arith : ArithOp → Form → Half → State → Except Err State
  | .adc => adc
  | .sbc => sbc

/-- The state an operation leaves (R110, R111). -/
def State.afterArith (s : State) : ArithOp → Byte → State
  | .adc => s.afterAdc
  | .sbc => s.afterSbc

theorem exec_arithInstr (o : ArithOp) (f : Form) (arg : Half) (s : State) :
    exec (o.instr f arg) s = conclude s (arith o f arg s) := by
  cases f with
  | imm =>
    have hlow : operand .imm ((arg.setWidth 8).setWidth 16) s = operand .imm arg s :=
      congrArg Except.ok (setWidth_byte_half _)
    cases o with
    | adc => exact congrArg (fun v => conclude s (v.bind fun m => adcCore m s)) hlow
    | sbc => exact congrArg (fun v => conclude s (v.bind fun m => sbcCore m s)) hlow
  | abs | absIdx | indX | indY => cases o <;> rfl

theorem arith_of_operand (h : operand f arg s = .ok m) : arith o f arg s = .ok (s.afterArith o m) := by
  cases o with
  | adc => exact adc_of_operand h
  | sbc => exact sbc_of_operand h

/-- The operand is fetched before anything is written, so its error is the command's (R112). -/
theorem arith_of_error {e : Err} (h : operand f arg s = .error e) : arith o f arg s = .error e := by
  cases o with
  | adc => exact adc_of_error h
  | sbc => exact sbc_of_error h

theorem answers_arith_literal (o : ArithOp) (m : Byte) (s : State) :
    Answers (o.literal m) s 0 (s.afterArith o m) := by
  have hm : operand .imm (m.setWidth 16) s = .ok m := congrArg Except.ok (setWidth_byte_half m)
  rw [← arithInstr_literal]
  exact answers_of_ok (exec_arithInstr o .imm _ s) (arith_of_operand hm)

theorem answers_arith (o : ArithOp) (hf : f ≠ .imm) (hea : ea f arg s = .ok a) (ha : a < s.cfg.memSize) :
    Answers (o.instr f arg) s 0 (s.afterArith o (s.mem.read a)) := by
  have hm : operand f arg s = .ok (s.mem.read a) := (operand_eq hf arg s).trans (readAtEa_ok hea ha)
  exact answers_of_ok (exec_arithInstr o f arg s) (arith_of_operand hm)

theorem answers_arith_outOfRange (o : ArithOp) (hf : f ≠ .imm) (h : s.addressFails f arg) :
    Answers (o.instr f arg) s 3 s := by
  have he : operand f arg s = .error .outOfRange := (operand_eq hf arg s).trans (readAtEa_outOfRange h)
  exact answers_of_error (exec_arithInstr o f arg s) (arith_of_error he)

/-! ### The rows of the statements' lists -/

/-- A row of a list made from the two operations is the row of its operation. -/
theorem arithRow_of_mem {head : Half} {after : Byte → State} {i : Instr}
    (h : (head, after, i) ∈ [ArithOp.adc, .sbc].map fun o => (regHead o.code .a f, s.afterArith o, o.instr f arg)) :
    ∃ o : ArithOp, head = regHead o.code .a f ∧ after = s.afterArith o ∧ i = o.instr f arg := by
  obtain ⟨o, -, h⟩ := List.mem_map.mp h
  cases h
  exact ⟨o, rfl, rfl, rfl⟩

/-- A row of a list made from the two operations and the two index registers is the row of both. -/
theorem arithIndexedRow_of_mem {head : Half} {off : Byte} {after : Byte → State} {i : Instr}
    (h : (head, off, after, i) ∈ [ArithOp.adc, .sbc].flatMap fun o => [Idx.x, .y].map fun k =>
      (regHead o.code .a (.absIdx k), s.index k, s.afterArith o, o.instr (.absIdx k) arg)) :
    ∃ (o : ArithOp) (k : Idx), head = regHead o.code .a (.absIdx k) ∧ off = s.index k ∧
      after = s.afterArith o ∧ i = o.instr (.absIdx k) arg := by
  obtain ⟨o, -, h⟩ := List.mem_flatMap.mp h
  obtain ⟨k, -, h⟩ := List.mem_map.mp h
  cases h
  exact ⟨o, k, rfl, rfl, rfl, rfl⟩

end Sys2Proof.Machine

open Sys2Proof Sys2Proof.Machine

/-- Settles O36: a byte survives the 16-bit literal field and is the operand; a wider literal breaks condition 8 of
R56. -/
theorem addSubtractImmediate : Obligations.AddSubtractImmediate := by
  unfold Obligations.AddSubtractImmediate
  intro s m
  have hadc : regHead ArithOp.adc.code .a .imm = 0x0310#16 := rfl
  have hsbc : regHead ArithOp.sbc.code .a .imm = 0x0410#16 := rfl
  rw [← hadc, ← hsbc]
  refine ⟨⟨decode_arithWord_literal s.cfg .adc m, answers_arith_literal .adc m s⟩,
    ⟨decode_arithWord_literal s.cfg .sbc m, answers_arith_literal .sbc m s⟩, fun arg h => ?wideLiteral⟩
  case wideLiteral =>
    exact ⟨decode_wideLiteral (byteLiteral_arithCode .adc) h, decode_wideLiteral (byteLiteral_arithCode .sbc) h⟩

/-- Settles O37: the effective address is `arg`, which names a cell or does not. -/
theorem addSubtractAbsolute : Obligations.AddSubtractAbsolute := by
  unfold Obligations.AddSubtractAbsolute
  intro s arg head after i h
  obtain ⟨o, rfl, rfl, rfl⟩ : ∃ o : ArithOp, head = regHead o.code .a .abs ∧ after = s.afterArith o ∧
      i = o.instr .abs arg := arithRow_of_mem h
  have hea : ea .abs arg s = .ok arg.toNat := ea_abs arg s
  exact ⟨decode_arithWord s.cfg o .abs arg nofun, answers_arith o nofun hea,
    fun ha => answers_arith_outOfRange o nofun ((addressFails_of_ok hea).mpr ha)⟩

/-- Settles O38: the effective address is `arg` plus the index register, which names a cell or does not. -/
theorem addSubtractAbsoluteIndexed : Obligations.AddSubtractAbsoluteIndexed := by
  unfold Obligations.AddSubtractAbsoluteIndexed
  intro s arg head off after i h
  obtain ⟨o, k, rfl, rfl, rfl, rfl⟩ : ∃ (o : ArithOp) (k : Idx), head = regHead o.code .a (.absIdx k) ∧
      off = s.index k ∧ after = s.afterArith o ∧ i = o.instr (.absIdx k) arg := arithIndexedRow_of_mem h
  have hea : ea (.absIdx k) arg s = .ok (arg.toNat + (s.index k).toNat) := ea_absIdx k arg s
  exact ⟨decode_arithWord s.cfg o (.absIdx k) arg nofun, answers_arith o nofun hea,
    fun ha => answers_arith_outOfRange o nofun ((addressFails_of_ok hea).mpr ha)⟩

/-- Settles O39: the effective address is the pointer at `arg` + X, when both its cells exist. -/
theorem addSubtractIndexedIndirect : Obligations.AddSubtractIndexedIndirect := by
  unfold Obligations.AddSubtractIndexedIndirect
  intro s arg head after i h
  obtain ⟨o, rfl, rfl, rfl⟩ : ∃ o : ArithOp, head = regHead o.code .a .indX ∧ after = s.afterArith o ∧
      i = o.instr .indX arg := arithRow_of_mem h
  exact ⟨decode_arithWord s.cfg o .indX arg nofun, fun hp => answers_arith o nofun (ea_indX_ok hp),
    fun hf => answers_arith_outOfRange o nofun (addressFails_indX hf)⟩

/-- Settles O40: the effective address is the pointer at `arg`, plus Y, when both its cells exist. -/
theorem addSubtractIndirectIndexed : Obligations.AddSubtractIndirectIndexed := by
  unfold Obligations.AddSubtractIndirectIndexed
  intro s arg head after i h
  obtain ⟨o, rfl, rfl, rfl⟩ : ∃ o : ArithOp, head = regHead o.code .a .indY ∧ after = s.afterArith o ∧
      i = o.instr .indY arg := arithRow_of_mem h
  exact ⟨decode_arithWord s.cfg o .indY arg nofun, fun hp => answers_arith o nofun (ea_indY_ok hp),
    fun hf => answers_arith_outOfRange o nofun (addressFails_indY hf)⟩

end

section
/-!
INC, DEC, CLC and SEC of 43_inc_dec_flagops.md (R129): the word of each command, the configurations that admit it
(R57), and what it then answers, at the edge of a byte and away from it (R130, R131).
-/

namespace Sys2Proof

variable {cfg : Config}

/-! ### The words of INC and DEC -/

/-- A word with the fields of a command decodes to it where the configuration admits its row, and to nothing
elsewhere (R57). -/
theorem decode_pack_eq_ite {f : Fields} {i : Instr} (h : decodeFields f = some i) :
    decode cfg (pack f) = if i.wellFormed cfg then some i else none := by
  rw [decode, fieldsOf_pack, h]

/-- The two operations on a memory cell of 43_inc_dec_flagops.md. -/
inductive IncDecOp where
  | inc
  | dec

/-- The `op` field's values (R51). -/
def IncDecOp.code : IncDecOp → BitVec 8
  | .inc => 0x05
  | .dec => 0x06

/-- INC or DEC through a form. -/
def IncDecOp.instr : IncDecOp → Form → Half → Instr
  | .inc => Form.pick .incImm .incAbs .incAbsIdx .incIndX .incIndY
  | .dec => Form.pick .decImm .decAbs .decAbsIdx .decIndX .decIndY

/-- The byte that cannot be counted on from: 0xFF up, 0x00 down (R130, R131). -/
def IncDecOp.edge : IncDecOp → Byte
  | .inc => 0xFF
  | .dec => 0x00

/-- What is added to the cell, modulo 256 (R130, R131). -/
def IncDecOp.delta : IncDecOp → Byte
  | .inc => 1
  | .dec => -1

/-- The word of an INC or a DEC decodes to it where its row is admitted (R57). -/
theorem decode_incDecWord (cfg : Config) (o : IncDecOp) (f : Form) (arg : Half) :
    decode cfg (regHead o.code .a f ++ arg ++ 0#16) =
      if (o.instr f arg).wellFormed cfg then some (o.instr f arg) else none := by
  have hop : decodeOp (regFields o.code .a f arg) = some (o.instr f arg) := by
    cases o <;> exact decodeFive_regFields ..
  have hz : mustBeZero (regFields o.code .a f arg) = true := by cases o <;> cases f <;> rfl
  rw [← pack_regFields]
  exact decode_pack_eq_ite (by rw [decodeFields, if_pos hz, hop])

/-- The rows of INC and DEC are those of EXT_INCDEC, but for the IMM form of INC (R57). -/
theorem incDecInstr_wellFormed (o : IncDecOp) (f : Form) (arg : Half) (hf : f ≠ .imm) :
    (o.instr f arg).wellFormed cfg = cfg.extIncDec := by
  cases f with
  | imm => exact absurd rfl hf
  | abs | absIdx | indX | indY => cases o <;> rfl

theorem decode_incDecWord_ext (cfg : Config) (o : IncDecOp) (f : Form) (arg : Half) (hf : f ≠ .imm) :
    decode cfg (regHead o.code .a f ++ arg ++ 0#16) = if cfg.extIncDec then some (o.instr f arg) else none := by
  rw [decode_incDecWord, incDecInstr_wellFormed o f arg hf]

/-! ### The words of CLC and SEC -/

theorem decode_clc (cfg : Config) : decode cfg 0x070000000000 = some .clc := Laws.RoundTrip.clc cfg rfl

theorem decode_sec (cfg : Config) : decode cfg 0x080000000000 = some .sec := Laws.RoundTrip.sec cfg rfl

end Sys2Proof

namespace Sys2Proof.Machine

variable {s : State} {o : IncDecOp} {f : Form} {arg : Half} {a : Nat}

/-! ### The core at an address -/

/-- The core an operation runs at its effective address. -/
def incDecCore : IncDecOp → Nat → State → Except Err State
  | .inc => incCore
  | .dec => decCore

theorem incDecCore_ok (ha : a < s.cfg.memSize) (h : s.mem.read a ≠ o.edge ∨ s.cfg.incDecEdge = .wrap) :
    incDecCore o a s = .ok (s.putMem (s.mem.writeMirrored a (s.mem.read a + o.delta))) := by
  cases o with
  | inc => exact incCore_ok ha h
  | dec => exact decCore_ok ha h

theorem incDecCore_edge (ha : a < s.cfg.memSize) (h : s.mem.read a = o.edge) (he : s.cfg.incDecEdge = .fault) :
    incDecCore o a s = .error .memoryOverflow := by
  cases o with
  | inc => exact incCore_edge ha h he
  | dec => exact decCore_edge ha h he

/-- The cell is read before it is written, so the read finds that there is none (R130, R131). -/
theorem incDecCore_outOfRange (ha : s.cfg.memSize ≤ a) : incDecCore o a s = .error .outOfRange := by
  cases o with
  | inc => rw [incDecCore, incCore, memRead_outOfRange ha]; rfl
  | dec => rw [incDecCore, decCore, memRead_outOfRange ha]; rfl

/-! ### The shared meaning of an operation's forms -/

/-- The core at the effective address, when there is one. -/
def incDec (o : IncDecOp) (f : Form) (arg : Half) (s : State) : Except Err State :=
  (ea f arg s).bind fun a => incDecCore o a s

theorem exec_incDecInstr (o : IncDecOp) (f : Form) (arg : Half) (s : State) :
    exec (o.instr f arg) s = conclude s (incDec o f arg s) := by
  cases o <;> cases f <;> rfl

theorem incDec_of_ea (hea : ea f arg s = .ok a) : incDec o f arg s = incDecCore o a s := by
  rw [incDec, hea]
  rfl

theorem incDec_outOfRange (h : s.addressFails f arg) : incDec o f arg s = .error .outOfRange := by
  rcases ea_cases f arg s with ⟨a, hea⟩ | he
  · rw [incDec_of_ea hea]
    exact incDecCore_outOfRange (h a hea)
  · rw [incDec, he]
    rfl

/-! ### What INC and DEC answer -/

/-- At a valid effective address the cell is counted on, or it stands at the edge under `FAULT` (R130, R131). -/
theorem answers_incDec (o : IncDecOp) (hea : ea f arg s = .ok a) (ha : a < s.cfg.memSize) :
    (s.mem.read a ≠ o.edge ∨ s.cfg.incDecEdge = .wrap →
      AnswersStore (o.instr f arg) s a (s.mem.read a + o.delta)) ∧
    (s.mem.read a = o.edge → s.cfg.incDecEdge = .fault → Answers (o.instr f arg) s 2 s) := by
  refine ⟨fun h => ?counted, fun h he => ?edge⟩
  case counted =>
    exact answersStore_of_ok (exec_incDecInstr o f arg s) ((incDec_of_ea hea).trans (incDecCore_ok ha h))
  case edge =>
    exact answers_of_error (exec_incDecInstr o f arg s) ((incDec_of_ea hea).trans (incDecCore_edge ha h he))

theorem answers_incDec_outOfRange (o : IncDecOp) (h : s.addressFails f arg) : Answers (o.instr f arg) s 3 s :=
  answers_of_error (exec_incDecInstr o f arg s) (incDec_outOfRange h)

/-! ### What CLC and SEC answer -/

theorem exec_clc (s : State) : exec .clc s = conclude s (.ok (s.putC false)) := rfl

theorem exec_sec (s : State) : exec .sec s = conclude s (.ok (s.putC true)) := rfl

/-! ### The rows of the statements' lists -/

/-- A row of a list made from the two operations is the row of its operation. -/
theorem incDecRow_of_mem {head : Half} {stop delta : Byte} {i : Instr}
    (h : (head, stop, delta, i) ∈ [IncDecOp.inc, .dec].map fun o =>
      (regHead o.code .a f, o.edge, o.delta, o.instr f arg)) :
    ∃ o : IncDecOp, head = regHead o.code .a f ∧ stop = o.edge ∧ delta = o.delta ∧ i = o.instr f arg := by
  obtain ⟨o, -, h⟩ := List.mem_map.mp h
  cases h
  exact ⟨o, rfl, rfl, rfl, rfl⟩

/-- A row of a list made from the two operations and the two index registers is the row of both. -/
theorem incDecIndexedRow_of_mem {head : Half} {off stop delta : Byte} {i : Instr}
    (h : (head, off, stop, delta, i) ∈ [IncDecOp.inc, .dec].flatMap fun o => [Idx.x, .y].map fun k =>
      (regHead o.code .a (.absIdx k), s.index k, o.edge, o.delta, o.instr (.absIdx k) arg)) :
    ∃ (o : IncDecOp) (k : Idx), head = regHead o.code .a (.absIdx k) ∧ off = s.index k ∧ stop = o.edge ∧
      delta = o.delta ∧ i = o.instr (.absIdx k) arg := by
  obtain ⟨o, -, h⟩ := List.mem_flatMap.mp h
  obtain ⟨k, -, h⟩ := List.mem_map.mp h
  cases h
  exact ⟨o, k, rfl, rfl, rfl, rfl, rfl⟩

/-- A row of a list made from the two operations and the two forms whose effective address is `arg` (R49) is the row
of both. -/
theorem incDecAtArgRow_of_mem {head : Half} {ok : Bool} {stop delta : Byte} {i : Instr}
    (h : (head, ok, stop, delta, i) ∈ [IncDecOp.inc, .dec].flatMap fun o => [Form.imm, .abs].map fun f =>
      (regHead o.code .a f, (o.instr f arg).wellFormed s.cfg, o.edge, o.delta, o.instr f arg)) :
    ∃ (o : IncDecOp) (f : Form), ea f arg s = .ok arg.toNat ∧ head = regHead o.code .a f ∧
      ok = (o.instr f arg).wellFormed s.cfg ∧ stop = o.edge ∧ delta = o.delta ∧ i = o.instr f arg := by
  obtain ⟨o, -, h⟩ := List.mem_flatMap.mp h
  obtain ⟨f, hf, h⟩ := List.mem_map.mp h
  have hea : ea f arg s = .ok arg.toNat := by
    rcases List.mem_pair.mp hf with rfl | rfl
    · exact ea_imm arg s
    · exact ea_abs arg s
  cases h
  exact ⟨o, f, hea, rfl, rfl, rfl, rfl, rfl⟩

end Sys2Proof.Machine

open Sys2Proof Sys2Proof.Machine

/-- Settles O43: in the IMM form as in the ABS form the effective address is `arg`, and the row's parameter is what
decides whether the word decodes. -/
theorem incDecAtTheAddress : Obligations.IncDecAtTheAddress := by
  unfold Obligations.IncDecAtTheAddress
  intro s arg head ok stop delta i h
  obtain ⟨o, f, hea, rfl, rfl, rfl, rfl, rfl⟩ : ∃ (o : IncDecOp) (f : Form), ea f arg s = .ok arg.toNat ∧
      head = regHead o.code .a f ∧ ok = (o.instr f arg).wellFormed s.cfg ∧ stop = o.edge ∧ delta = o.delta ∧
      i = o.instr f arg := incDecAtArgRow_of_mem h
  exact ⟨decode_incDecWord s.cfg o f arg, fun _ => answers_incDec o hea,
    fun _ ha => answers_incDec_outOfRange o ((addressFails_of_ok hea).mpr ha)⟩

/-- Settles O44: the effective address is `arg` plus the index register, which names a cell or does not. -/
theorem incDecAbsoluteIndexed : Obligations.IncDecAbsoluteIndexed := by
  unfold Obligations.IncDecAbsoluteIndexed
  intro s arg head off stop delta i h
  obtain ⟨o, k, rfl, rfl, rfl, rfl, rfl⟩ : ∃ (o : IncDecOp) (k : Idx), head = regHead o.code .a (.absIdx k) ∧
      off = s.index k ∧ stop = o.edge ∧ delta = o.delta ∧ i = o.instr (.absIdx k) arg := incDecIndexedRow_of_mem h
  have hea : ea (.absIdx k) arg s = .ok (arg.toNat + (s.index k).toNat) := ea_absIdx k arg s
  exact ⟨decode_incDecWord_ext s.cfg o (.absIdx k) arg nofun, fun _ => answers_incDec o hea,
    fun _ ha => answers_incDec_outOfRange o ((addressFails_of_ok hea).mpr ha)⟩

/-- Settles O45: the effective address is the pointer at `arg` + X, when both its cells exist. -/
theorem incDecIndexedIndirect : Obligations.IncDecIndexedIndirect := by
  unfold Obligations.IncDecIndexedIndirect
  rintro s arg head stop delta i p q h rfl rfl
  obtain ⟨o, rfl, rfl, rfl, rfl⟩ : ∃ o : IncDecOp, head = regHead o.code .a .indX ∧ stop = o.edge ∧
      delta = o.delta ∧ i = o.instr .indX arg := incDecRow_of_mem h
  exact ⟨decode_incDecWord_ext s.cfg o .indX arg nofun, fun _ hp => answers_incDec o (ea_indX_ok hp),
    fun _ hf => answers_incDec_outOfRange o (addressFails_indX hf)⟩

/-- Settles O46: the effective address is the pointer at `arg`, plus Y, when both its cells exist. -/
theorem incDecIndirectIndexed : Obligations.IncDecIndirectIndexed := by
  unfold Obligations.IncDecIndirectIndexed
  rintro s arg head stop delta i q h rfl
  obtain ⟨o, rfl, rfl, rfl, rfl⟩ : ∃ o : IncDecOp, head = regHead o.code .a .indY ∧ stop = o.edge ∧
      delta = o.delta ∧ i = o.instr .indY arg := incDecRow_of_mem h
  exact ⟨decode_incDecWord_ext s.cfg o .indY arg nofun, fun _ hp => answers_incDec o (ea_indY_ok hp),
    fun _ hf => answers_incDec_outOfRange o (addressFails_indY hf)⟩

/-- Settles O47: each word is its command's own in every configuration, and the command always concludes with `C`
replaced. -/
theorem clcAndSecSetOnlyTheCarry : Obligations.ClcAndSecSetOnlyTheCarry := by
  unfold Obligations.ClcAndSecSetOnlyTheCarry
  intro s
  exact ⟨⟨decode_clc s.cfg, answers_of_ok (exec_clc s) rfl⟩, ⟨decode_sec s.cfg, answers_of_ok (exec_sec s) rfl⟩⟩

end

section
/-!
AND, ORA, EOR and the shifts and rotates of 44_logic_shift_ext.md (R150): the word of each command, which `EXT_ALU`
admits (R57), and what the command then answers.
-/

namespace Sys2Proof

variable {cfg : Config} {op : BitVec 8} {f : Form} {arg : Half} {i : Instr}

/-! ### The words of AND, ORA and EOR -/

/-- A word of an operation whose `reg` field is zero decodes to its command where the configuration admits the row, and
to nothing elsewhere (R57). -/
theorem decode_regHead_a_eq_ite (hop : decodeOp (regFields op .a f arg) = some i)
    (hz : f = .imm → arg.extractLsb' 8 8 = 0) :
    decode cfg (regHead op .a f ++ arg ++ 0#16) = if i.wellFormed cfg then some i else none := by
  rw [← pack_regFields]
  exact decode_pack_eq_ite (by rw [decodeFields, if_pos (mustBeZero_regFields_a op hz), hop])

/-- The three bitwise operations of 44_logic_shift_ext.md. -/
inductive LogicOp where
  | and
  | ora
  | eor

/-- The `op` field's values (R51). -/
def LogicOp.code : LogicOp → BitVec 8
  | .and => 0x10
  | .ora => 0x11
  | .eor => 0x12

/-- What is computed of the accumulator and the operand (R150). -/
def LogicOp.apply : LogicOp → Byte → Byte → Byte
  | .and => (· &&& ·)
  | .ora => (· ||| ·)
  | .eor => (· ^^^ ·)

/-- AND, ORA or EOR through a form; of a literal's field it keeps the low byte (R112). -/
def LogicOp.instr : LogicOp → Form → Half → Instr
  | .and => Form.pick (fun arg => .andImm (arg.setWidth 8)) .andAbs .andAbsIdx .andIndX .andIndY
  | .ora => Form.pick (fun arg => .oraImm (arg.setWidth 8)) .oraAbs .oraAbsIdx .oraIndX .oraIndY
  | .eor => Form.pick (fun arg => .eorImm (arg.setWidth 8)) .eorAbs .eorAbsIdx .eorIndX .eorIndY

/-- AND, ORA or EOR of a literal byte (R151, R156, R161). -/
def LogicOp.literal : LogicOp → Byte → Instr
  | .and => .andImm
  | .ora => .oraImm
  | .eor => .eorImm

/-- A byte survives the literal's field (R55). -/
theorem logicInstr_literal (o : LogicOp) (m : Byte) : o.instr .imm (m.setWidth 16) = o.literal m := by
  cases o <;> exact congrArg _ (setWidth_byte_half m)

/-- Every row of the three operations is one of `EXT_ALU` (R57). -/
theorem logicInstr_wellFormed (o : LogicOp) (f : Form) (arg : Half) :
    (o.instr f arg).wellFormed cfg = cfg.extAlu := by
  cases o <;> cases f <;> rfl

/-- Under `EXT_ALU` the word of an AND, an ORA or an EOR decodes to it, unless its literal is wider than a byte
(R57). -/
theorem decode_logicWord (cfg : Config) (o : LogicOp) (f : Form) (arg : Half)
    (hz : f = .imm → arg.extractLsb' 8 8 = 0) :
    decode cfg (regHead o.code .a f ++ arg ++ 0#16) = if cfg.extAlu then some (o.instr f arg) else none := by
  have hop : decodeOp (regFields o.code .a f arg) = some (o.instr f arg) := by
    cases o with
    | and => exact decodeFive_regFields 0x10 .a f arg (fun arg => .andImm (arg.setWidth 8)) _ _ _ _
    | ora => exact decodeFive_regFields 0x11 .a f arg (fun arg => .oraImm (arg.setWidth 8)) _ _ _ _
    | eor => exact decodeFive_regFields 0x12 .a f arg (fun arg => .eorImm (arg.setWidth 8)) _ _ _ _
  rw [decode_regHead_a_eq_ite hop hz, logicInstr_wellFormed]

theorem decode_logicWord_literal (cfg : Config) (o : LogicOp) (m : Byte) :
    decode cfg (regHead o.code .a .imm ++ m.setWidth 16 ++ 0#16) =
      if cfg.extAlu then some (o.literal m) else none := by
  rw [← logicInstr_literal]
  exact decode_logicWord cfg o .imm _ fun _ => extract_high_of_byte m

theorem byteLiteral_logicCode (o : LogicOp) : byteLiteral o.code = true := by cases o <;> rfl

/-! ### The words of the shifts and rotates -/

/-- The word of a command on the accumulator: `op`, mode ACC, and nothing else (R52, R56). -/
theorem decode_accumulatorWord (hop : decodeFields ⟨op, 6, 0, 0, 0, 0, 0⟩ = some i) (hadm : i.admission = .extAlu) :
    decode cfg (pack ⟨op, 6, 0, 0, 0, 0, 0⟩) = if cfg.extAlu then some i else none := by
  rw [decode_pack_eq_ite hop, Instr.wellFormed, hadm, Config.admits]

end Sys2Proof

namespace Sys2Proof.Machine

variable {s : State} {o : LogicOp} {f : Form} {arg : Half} {a : Nat} {m : Byte} {i : Instr}

/-! ### What AND, ORA and EOR answer -/

/-- The shared meaning of an operation's forms. -/
def logic : LogicOp → Form → Half → State → Except Err State
  | .and => andLogic
  | .ora => oraLogic
  | .eor => eorLogic

theorem exec_logicInstr (o : LogicOp) (hf : f ≠ .imm) (arg : Half) (s : State) :
    exec (o.instr f arg) s = conclude s (logic o f arg s) := by
  cases f with
  | imm => exact absurd rfl hf
  | abs | absIdx | indX | indY => cases o <;> rfl

theorem exec_logicLiteral (o : LogicOp) (m : Byte) (s : State) :
    exec (o.literal m) s = conclude s (logic o .imm (m.setWidth 16) s) := by
  cases o <;> rfl

theorem logic_of_operand (h : operand f arg s = .ok m) : logic o f arg s = .ok (s.written .a (o.apply s.a m)) := by
  cases o with
  | and => exact andLogic_of_operand h
  | ora => exact oraLogic_of_operand h
  | eor => exact eorLogic_of_operand h

/-- The operand is fetched before anything is written, so its error is the command's (R112). -/
theorem logic_of_error {e : Err} (h : operand f arg s = .error e) : logic o f arg s = .error e := by
  cases o with
  | and => exact andLogic_of_error h
  | ora => exact oraLogic_of_error h
  | eor => exact eorLogic_of_error h

theorem answers_logic_literal (o : LogicOp) (m : Byte) (s : State) :
    Answers (o.literal m) s 0 (s.written .a (o.apply s.a m)) := by
  have hm : operand .imm (m.setWidth 16) s = .ok m := congrArg Except.ok (setWidth_byte_half m)
  exact answers_of_ok (exec_logicLiteral o m s) (logic_of_operand hm)

theorem answers_logic (o : LogicOp) (hf : f ≠ .imm) (hea : ea f arg s = .ok a) (ha : a < s.cfg.memSize) :
    Answers (o.instr f arg) s 0 (s.written .a (o.apply s.a (s.mem.read a))) := by
  have hm : operand f arg s = .ok (s.mem.read a) := (operand_eq hf arg s).trans (readAtEa_ok hea ha)
  exact answers_of_ok (exec_logicInstr o hf arg s) (logic_of_operand hm)

theorem answers_logic_outOfRange (o : LogicOp) (hf : f ≠ .imm) (h : s.addressFails f arg) :
    Answers (o.instr f arg) s 3 s := by
  have he : operand f arg s = .error .outOfRange := (operand_eq hf arg s).trans (readAtEa_outOfRange h)
  exact answers_of_error (exec_logicInstr o hf arg s) (logic_of_error he)

/-! ### What the shifts and rotates answer -/

/-- A command that means a shift commits the result as a byte, and the bit shifted out (R150). -/
theorem answers_of_shift {out bit : Bool} {res : Nat} {b : Byte} (h : exec i s = conclude s (shift out res s))
    (hout : out = bit) (hres : res ≤ 255 ∧ BitVec.ofNat 8 res = b) :
    Answers i s 0 ({ s with c := bit }.written .a b) := by
  obtain ⟨hle, rfl⟩ := hres
  subst hout
  exact answers_of_ok h (shift_ok out hle s)

/-! ### The rows of the statements' lists -/

/-- A row of a list made from the three operations is the row of its operation. -/
theorem logicRow_of_mem {instr : LogicOp → Instr} {head : Half} {g : Byte → Byte → Byte}
    (h : (head, g, i) ∈ [LogicOp.and, .ora, .eor].map fun o => (regHead o.code .a f, o.apply, instr o)) :
    ∃ o : LogicOp, head = regHead o.code .a f ∧ g = o.apply ∧ i = instr o := by
  obtain ⟨o, -, h⟩ := List.mem_map.mp h
  cases h
  exact ⟨o, rfl, rfl, rfl⟩

/-- A row of a list made from the three operations and the two index registers is the row of both. -/
theorem logicIndexedRow_of_mem {head : Half} {off : Byte} {g : Byte → Byte → Byte}
    (h : (head, off, g, i) ∈ [LogicOp.and, .ora, .eor].flatMap fun o => [Idx.x, .y].map fun k =>
      (regHead o.code .a (.absIdx k), s.index k, o.apply, o.instr (.absIdx k) arg)) :
    ∃ (o : LogicOp) (k : Idx), head = regHead o.code .a (.absIdx k) ∧ off = s.index k ∧ g = o.apply ∧
      i = o.instr (.absIdx k) arg := by
  obtain ⟨o, -, h⟩ := List.mem_flatMap.mp h
  obtain ⟨k, -, h⟩ := List.mem_map.mp h
  cases h
  exact ⟨o, k, rfl, rfl, rfl, rfl⟩

end Sys2Proof.Machine

open Sys2Proof Sys2Proof.Machine

/-- Settles O48: a byte survives the 16-bit literal field and is the operand; a wider literal breaks condition 8 of
R56. -/
theorem logicImmediate : Obligations.LogicImmediate := by
  unfold Obligations.LogicImmediate
  intro s m head g i h
  obtain ⟨o, rfl, rfl, rfl⟩ : ∃ o : LogicOp, head = regHead o.code .a .imm ∧ g = o.apply ∧ i = o.literal m :=
    logicRow_of_mem h
  exact ⟨decode_logicWord_literal s.cfg o m, fun _ => answers_logic_literal o m s,
    fun _ hwide => decode_wideLiteral (byteLiteral_logicCode o) hwide⟩

/-- Settles O49: the effective address is `arg`, which names a cell or does not. -/
theorem logicAbsolute : Obligations.LogicAbsolute := by
  unfold Obligations.LogicAbsolute
  intro s arg head g i h
  obtain ⟨o, rfl, rfl, rfl⟩ : ∃ o : LogicOp, head = regHead o.code .a .abs ∧ g = o.apply ∧ i = o.instr .abs arg :=
    logicRow_of_mem h
  have hea : ea .abs arg s = .ok arg.toNat := ea_abs arg s
  exact ⟨decode_logicWord s.cfg o .abs arg nofun, fun _ => answers_logic o nofun hea,
    fun _ ha => answers_logic_outOfRange o nofun ((addressFails_of_ok hea).mpr ha)⟩

/-- Settles O50: the effective address is `arg` plus the index register, which names a cell or does not. -/
theorem logicAbsoluteIndexed : Obligations.LogicAbsoluteIndexed := by
  unfold Obligations.LogicAbsoluteIndexed
  intro s arg head off g i h
  obtain ⟨o, k, rfl, rfl, rfl, rfl⟩ : ∃ (o : LogicOp) (k : Idx), head = regHead o.code .a (.absIdx k) ∧
      off = s.index k ∧ g = o.apply ∧ i = o.instr (.absIdx k) arg := logicIndexedRow_of_mem h
  have hea : ea (.absIdx k) arg s = .ok (arg.toNat + (s.index k).toNat) := ea_absIdx k arg s
  exact ⟨decode_logicWord s.cfg o (.absIdx k) arg nofun, fun _ => answers_logic o nofun hea,
    fun _ ha => answers_logic_outOfRange o nofun ((addressFails_of_ok hea).mpr ha)⟩

/-- Settles O51: the effective address is the pointer at `arg` + X, when both its cells exist. -/
theorem logicIndexedIndirect : Obligations.LogicIndexedIndirect := by
  unfold Obligations.LogicIndexedIndirect
  rintro s arg head g i p q h rfl rfl
  obtain ⟨o, rfl, rfl, rfl⟩ : ∃ o : LogicOp, head = regHead o.code .a .indX ∧ g = o.apply ∧ i = o.instr .indX arg :=
    logicRow_of_mem h
  exact ⟨decode_logicWord s.cfg o .indX arg nofun, fun _ hp => answers_logic o nofun (ea_indX_ok hp),
    fun _ hfail => answers_logic_outOfRange o nofun (addressFails_indX hfail)⟩

/-- Settles O52: the effective address is the pointer at `arg`, plus Y, when both its cells exist. -/
theorem logicIndirectIndexed : Obligations.LogicIndirectIndexed := by
  unfold Obligations.LogicIndirectIndexed
  rintro s arg head g i q h rfl
  obtain ⟨o, rfl, rfl, rfl⟩ : ∃ o : LogicOp, head = regHead o.code .a .indY ∧ g = o.apply ∧ i = o.instr .indY arg :=
    logicRow_of_mem h
  exact ⟨decode_logicWord s.cfg o .indY arg nofun, fun _ hp => answers_logic o nofun (ea_indY_ok hp),
    fun _ hfail => answers_logic_outOfRange o nofun (addressFails_indY hfail)⟩

/-- Settles O53, row by row: each command is a shift whose result fits a byte and whose bit shifted out is an end bit of
`A`, bit 7 to the left and bit 0 to the right. -/
theorem shiftsAndRotates : Obligations.ShiftsAndRotates := by
  unfold Obligations.ShiftsAndRotates
  intro s w res out i h
  simp only [List.mem_cons, Prod.mk.injEq, List.not_mem_nil, or_false] at h
  rcases h with ⟨rfl, rfl, rfl, rfl⟩ | ⟨rfl, rfl, rfl, rfl⟩ | ⟨rfl, rfl, rfl, rfl⟩ | ⟨rfl, rfl, rfl, rfl⟩
  case inl =>
    exact ⟨decode_accumulatorWord (op := 0x13) rfl rfl,
      fun _ => answers_of_shift rfl (testBit_seven s.a) (aslResult_eq s.a)⟩
  case inr.inl =>
    exact ⟨decode_accumulatorWord (op := 0x14) rfl rfl,
      fun _ => answers_of_shift rfl (testBit_zero s.a) (lsrResult_eq s.a)⟩
  case inr.inr.inl =>
    exact ⟨decode_accumulatorWord (op := 0x15) rfl rfl,
      fun _ => answers_of_shift rfl (testBit_seven s.a) (rolResult_eq s.a s.c)⟩
  case inr.inr.inr =>
    exact ⟨decode_accumulatorWord (op := 0x16) rfl rfl,
      fun _ => answers_of_shift rfl (testBit_zero s.a) (rorResult_eq s.a s.c)⟩

end

section
/-!
The errors of 60_exceptions.md: which of the four codes a command answers and when (R181 to R185), the state an error
leaves (R186), and the block's readiness for the next command (R186, R189).
-/

namespace Sys2Proof.Machine

variable {i : Instr} {s t : State}

/-! ### The sources of the errors -/

theorem setReg_error_iff (r : Reg) (v : Nat) (s : State) : setReg r v s = .error .registerOverflow ↔ 255 < v :=
  ⟨fun h => (setReg_eq_error h).1, setReg_overflow s r⟩

theorem wideLiteral_address (h : WideLiteral i) : i.address = none := by
  obtain ⟨arg, -, rfl | rfl | rfl⟩ := h <;> rfl

theorem wideLiteral_writesMem (h : WideLiteral i) : i.writesMem = false := by
  obtain ⟨arg, -, rfl | rfl | rfl⟩ := h <;> rfl

/-- A wide literal is its LOAD in the IMM form. -/
theorem wideLiteral_iff : WideLiteral i ↔ ∃ r arg, 0xFF < arg.toNat ∧ i = loadInstr r .imm arg := by
  constructor
  · rintro ⟨arg, h, rfl | rfl | rfl⟩
    · exact ⟨.a, arg, h, rfl⟩
    · exact ⟨.x, arg, h, rfl⟩
    · exact ⟨.y, arg, h, rfl⟩
  · rintro ⟨r, arg, h, rfl⟩
    exact ⟨arg, h, by cases r <;> simp [loadInstr, Form.pick]⟩

/-- SetReg refuses a wide literal before anything is written (R14, R181). -/
theorem exec_wideLiteral (h : WideLiteral i) (s : State) : exec i s = raiseError .registerOverflow s := by
  obtain ⟨r, arg, hw, rfl⟩ := wideLiteral_iff.mp h
  have hload : load r .imm arg s = .error .registerOverflow := setReg_overflow s r hw
  rw [exec_loadInstr, hload, conclude]

theorem not_memoryOverflowSource_of_writesMem (h : i.writesMem = false) : ¬ MemoryOverflowSource i s := fun hs =>
  Bool.false_ne_true (h.symm.trans (memoryOverflowSource_writesMem hs))

/-- Each code a command can answer, with what that says of the sources of the errors. -/
theorem effect_outcomes (h : Effect i s t) :
    (t.answered 0 ∧ ¬ MemoryOverflowSource i s ∧ ¬ OutOfRangeSource i s) ∨
    (t.answered 1 ∧ WideLiteral i) ∨
    (t.answered 2 ∧ MemoryOverflowSource i s) ∨
    (t.answered 3 ∧ OutOfRangeSource i s ∧ ¬ MemoryOverflowSource i s) := by
  cases h with
  | data arg hi ha =>
    subst hi
    refine .inl ⟨rfl, not_memoryOverflowSource_of_writesMem rfl, ?_⟩
    rw [outOfRangeSource_iff rfl]
    exact not_addressFails (ea_abs arg s) ha
  | register r b c v _ hm _ _ ho =>
    exact .inl ⟨rfl, not_memoryOverflowSource_of_writesMem hm, ho⟩
  | carry c _ hm _ _ ho =>
    exact .inl ⟨rfl, not_memoryOverflowSource_of_writesMem hm, not_outOfRangeSource ho⟩
  | memory f arg a b hf hea ha _ _ _ _ hs =>
    refine .inl ⟨rfl, hs, ?_⟩
    rw [outOfRangeSource_iff hf]
    exact not_addressFails hea ha
  | registerOverflow h => exact .inr (.inl ⟨rfl, h⟩)
  | memoryOverflow h => exact .inr (.inr (.inl ⟨rfl, h⟩))
  | outOfRange h hs => exact .inr (.inr (.inr ⟨rfl, h, hs⟩))

/-! ### Which error a command answers -/

/-- A response carries one code (R62). -/
theorem not_answered_of_ne {e e' : BitVec 3} (h : t.answered e) (hne : e ≠ e') : ¬ t.answered e' := fun h' =>
  hne (Option.some.inj (h.symm.trans h'))

/-- RegisterOverflow has the wide literals as its only source (R181). -/
theorem answered_one_iff (h : exec i s = .next t) : t.answered 1 ↔ WideLiteral i := by
  constructor
  · intro ht
    rcases effect_outcomes (effect_of_exec h) with ⟨h0, -⟩ | ⟨-, hw⟩ | ⟨h2, -⟩ | ⟨h3, -⟩
    · exact absurd ht (not_answered_of_ne h0 (by decide))
    · exact hw
    · exact absurd ht (not_answered_of_ne h2 (by decide))
    · exact absurd ht (not_answered_of_ne h3 (by decide))
  · intro hw
    rw [exec_wideLiteral hw, raiseError] at h
    cases h
    rfl

/-- MemoryOverflow is answered exactly where its source is (R182). -/
theorem answered_two_iff (h : Effect i s t) : t.answered 2 ↔ MemoryOverflowSource i s := by
  rcases effect_outcomes h with ⟨h0, hs, -⟩ | ⟨h1, hw⟩ | ⟨h2, hs⟩ | ⟨h3, -, hs⟩
  · exact iff_of_false (not_answered_of_ne h0 (by decide)) hs
  · exact iff_of_false (not_answered_of_ne h1 (by decide))
      (not_memoryOverflowSource_of_writesMem (wideLiteral_writesMem hw))
  · exact iff_of_true h2 hs
  · exact iff_of_false (not_answered_of_ne h3 (by decide)) hs

/-- OutOfRange is answered exactly where its source is and MemoryOverflow is not raised first (R183, R185). -/
theorem answered_three_iff (h : Effect i s t) : t.answered 3 ↔ ¬ t.answered 2 ∧ OutOfRangeSource i s := by
  rcases effect_outcomes h with ⟨h0, -, ho⟩ | ⟨h1, hw⟩ | ⟨h2, -⟩ | ⟨h3, ho, -⟩
  · exact iff_of_false (not_answered_of_ne h0 (by decide)) fun ⟨_, h⟩ => ho h
  · exact iff_of_false (not_answered_of_ne h1 (by decide)) fun ⟨_, h⟩ =>
      not_outOfRangeSource (wideLiteral_address hw) h
  · exact iff_of_false (not_answered_of_ne h2 (by decide)) fun ⟨hn, _⟩ => hn h2
  · exact iff_of_true h3 ⟨not_answered_of_ne h3 (by decide), ho⟩

/-- A command word that decodes is never answered IllegalCommand (R184). -/
theorem not_answered_four (h : Effect i s t) : ¬ t.answered 4 := by
  rcases effect_outcomes h with ⟨ht, -⟩ | ⟨ht, -⟩ | ⟨ht, -⟩ | ⟨ht, -⟩ <;>
    exact not_answered_of_ne ht (by decide)

/-! ### After an error -/

theorem sameArch_answer (s : State) (e : BitVec 3) : s.sameArch (s.answer e) :=
  ⟨rfl, rfl, rfl, rfl, rfl, rfl, rfl, rfl, rfl⟩

theorem not_answered_zero {r : Response} (ht : t.resp = some r) (hr : r.err ≠ 0) : ¬ t.answered 0 := by
  simpa [State.answered, ht] using hr

/-- A command word that is answered with an error is taken, and its response is all else it leaves (R186). -/
theorem step_failed {w : CommandWord} {es : List HostEvent} (he : s.events = .command w :: es)
    (h : step s = .next t) (ht : ¬ t.answered 0) : ∃ e : Err, t = (s.putEvents es).answer e.code := by
  obtain ⟨hw, -⟩ := step_cases h
  rw [step_event hw he, runEvent, runCommand] at h
  split at h
  · exact effect_failed (effect_of_exec h) ht
  · cases h
    exact ⟨_, rfl⟩

/-- As many steps as words wait: all are taken, and a response stands if one stood before or any word was taken. -/
theorem core_run_commands (ws : List CommandWord) {es : List HostEvent} (hw : s.cfg.wellFormed = true)
    (he : s.events = ws.map HostEvent.command ++ es) :
    ∃ t : State, core.run ws.length s = .next t ∧ t.events = es ∧ t.cfg = s.cfg ∧
      (s.resp.isSome = true ∨ ws ≠ [] → t.resp.isSome = true) := by
  induction ws generalizing s with
  | nil => exact ⟨s, rfl, he, rfl, fun h => h.resolve_right fun h => h rfl⟩
  | cons w ws ih =>
    obtain ⟨u, hstep, hev, hcfg, hresp⟩ := step_command hw he
    obtain ⟨t, hrun, htev, htcfg, htresp⟩ := ih (hcfg ▸ hw) hev
    refine ⟨t, ?_, htev, htcfg.trans hcfg, fun _ => htresp (.inl hresp)⟩
    rw [List.length_cons, core_run_succ _ hstep, hrun]

end Sys2Proof.Machine

open Sys2Proof Sys2Proof.Machine

/-- Settles O15: an error, be it the command's or the decoder's, leaves only a response and the taken word behind, and
in the unchanged configuration the next word is taken. -/
theorem errorsLeaveTheStateUnchanged : Obligations.ErrorsLeaveTheStateUnchanged := by
  unfold Obligations.ErrorsLeaveTheStateUnchanged
  intro s t w es r he h ht hr
  obtain ⟨hw, -⟩ := step_cases h
  obtain ⟨e, rfl⟩ := step_failed he h (not_answered_zero ht hr)
  refine ⟨sameArch_answer (s.putEvents es) e.code, rfl, fun w' es' he' => ?_⟩
  obtain ⟨u, hu, -⟩ := step_command (s := (s.putEvents es).answer e.code) hw he'
  exact ⟨u, hu⟩

/-- Settles O17, by SetReg's value check and by the wide literals being the only source of its error. -/
theorem registerOverflowExactlyFromWideLiterals : Obligations.RegisterOverflowExactlyFromWideLiterals := by
  unfold Obligations.RegisterOverflowExactlyFromWideLiterals
  refine ⟨setReg_error_iff, fun i s t h => ⟨answered_one_iff h, fun ht => ?_⟩⟩
  rw [exec_wideLiteral ((answered_one_iff h).mp ht), raiseError] at h
  cases h
  exact sameArch_answer s _

/-- Settles O18, by what each effect of a command says of the sources of MemoryOverflow and OutOfRange. -/
theorem sourcesOfTheOtherErrors : Obligations.SourcesOfTheOtherErrors := by
  unfold Obligations.SourcesOfTheOtherErrors
  intro i s t h
  have he : Effect i s t := effect_of_exec h
  exact ⟨answered_two_iff he, answered_three_iff he, not_answered_four he⟩

/-- Settles O55, by induction on the words: each is taken and answered, whatever was answered before it. -/
theorem blockKeepsAcceptingCommandsAfterErrors : Obligations.BlockKeepsAcceptingCommandsAfterErrors := by
  unfold Obligations.BlockKeepsAcceptingCommandsAfterErrors
  intro ws es s hw he
  obtain ⟨t, hrun, hev, hcfg, hresp⟩ := core_run_commands ws hw he
  exact ⟨t, hrun, hev, hcfg, fun hne => hresp (.inr hne)⟩

end

section
/-!
The configuration and the resets of 70_reset_and_hazards.md: no command changes a parameter (R201), and what the two
resets leave (R200).
-/

namespace Sys2Proof.Machine

variable {s t : State} {es : List HostEvent}

/-- No command, completed or failed, changes a parameter (R201). -/
theorem effect_keeps_cfg {i : Instr} (h : Effect i s t) : t.cfg = s.cfg := by
  cases h with
  | register r => rw [answer_cfg, written_cfg]
  | data | carry | memory | registerOverflow | memoryOverflow | outOfRange => rfl

theorem step_resetCore (hw : s.cfg.wellFormed = true) (he : s.events = .resetCore :: es) :
    step s = .next (resetCore (s.putEvents es)) := by
  rw [step_event hw he, runEvent]

theorem step_resetAll {cfg : Config} (hw : s.cfg.wellFormed = true) (hc : cfg.wellFormed = true)
    (he : s.events = .resetAll cfg :: es) : step s = .next (resetAll cfg (s.putEvents es)) := by
  rw [step_event hw he, runEvent, if_pos hc]

end Sys2Proof.Machine

open Sys2Proof Sys2Proof.Machine

/-- Settles O14, by the cases of a step: idling, a command, an illegal word and a ResetCore keep the configuration, and
a ResetAll leaves the one it carried. -/
theorem onlyResetAllChangesConfiguration : Obligations.OnlyResetAllChangesConfiguration := by
  unfold Obligations.OnlyResetAllChangesConfiguration
  intro s t h
  obtain ⟨-, ⟨-, rfl⟩ | ⟨es, ⟨w, i, -, -, hx⟩ | ⟨w, -, -, rfl⟩ | ⟨-, rfl⟩ | ⟨cfg, he, -, rfl⟩⟩⟩ := step_cases h
  case inl => exact .inl rfl
  case inr.inl => exact .inl ((effect_keeps_cfg (effect_of_exec hx)).trans (putEvents_cfg s es))
  case inr.inr.inl => exact .inl rfl
  case inr.inr.inr.inl => exact .inl rfl
  case inr.inr.inr.inr => exact .inr ⟨es, he⟩

/-- Settles O7, by the one step each reset takes; the memory ResetAll leaves lists no cell, so that each reads as the
unlisted byte, 0x00. -/
theorem hostResetsZeroTheState : Obligations.HostResetsZeroTheState := by
  unfold Obligations.HostResetsZeroTheState
  intro s es hw
  refine ⟨fun he => ⟨_, _, step_resetCore hw he⟩, fun cfg hc he => ?_⟩
  exact ⟨[], _, _, memory_read_nil, rfl, step_resetAll hw hc he⟩

end

section
/-!
The decoder against the encoder and against the opcode table (30_encoding.md section 5).
-/

namespace Sys2Proof

variable {cfg : Config} {f : Fields} {i : Instr}

/-! ### What the decoder's tables say of the fields -/

/-- The `mode` and `idx` fields name the form (R52, R54). -/
def HasForm (f : Fields) (m : Form) : Prop := f.mode = m.mode ∧ f.idx = m.idxBit

/-- A form without an index register is named by its `mode` alone, since `idx` is then zero (R56). -/
theorem hasForm_of_mode (hidx : f.idx = 0 ∨ f.mode = 3) {m : Form} (hm : f.mode.toNat = m.mode.toNat)
    (hne : m.mode ≠ 3) : HasForm f m := by
  have hmode : f.mode = m.mode := BitVec.eq_of_toNat_eq hm
  have hzero : f.idx = 0 := hidx.resolve_right (hmode ▸ hne)
  cases m with
  | absIdx => exact absurd rfl hne
  | imm | abs | indX | indY => exact ⟨hmode, hzero⟩

theorem hasForm_absIdx (hm : f.mode.toNat = 3) : HasForm f (.absIdx (idxOfBit f.idx)) :=
  ⟨BitVec.eq_of_toNat_eq hm, (bit_idxOfBit f.idx).symm⟩

theorem decodeFive_eq_some {imm abs indX indY : Half → Instr} {absIdx : Idx → Half → Instr}
    (hidx : f.idx = 0 ∨ f.mode = 3) (h : decodeFive f imm abs absIdx indX indY = some i) :
    ∃ m : Form, HasForm f m ∧ m.pick imm abs absIdx indX indY f.arg = i := by
  unfold decodeFive at h
  split at h
  case h_1 hm => exact ⟨.imm, hasForm_of_mode hidx hm (by decide), Option.some.inj h⟩
  case h_2 hm => exact ⟨.abs, hasForm_of_mode hidx hm (by decide), Option.some.inj h⟩
  case h_3 hm => exact ⟨_, hasForm_absIdx hm, Option.some.inj h⟩
  case h_4 hm => exact ⟨.indX, hasForm_of_mode hidx hm (by decide), Option.some.inj h⟩
  case h_5 hm => exact ⟨.indY, hasForm_of_mode hidx hm (by decide), Option.some.inj h⟩
  case h_6 => cases h

/-- STORE of a register that has the three forms only (R58). -/
theorem decodeThree_eq_some {r : Reg} {imm abs : Half → Instr} {absIdx : Idx → Half → Instr}
    (himm : ∀ arg, storeInstr r .imm arg = some (imm arg)) (habs : ∀ arg, storeInstr r .abs arg = some (abs arg))
    (habsIdx : ∀ k arg, storeInstr r (.absIdx k) arg = some (absIdx k arg))
    (hidx : f.idx = 0 ∨ f.mode = 3) (h : decodeThree f imm abs absIdx = some i) :
    ∃ m : Form, HasForm f m ∧ storeInstr r m f.arg = some i := by
  unfold decodeThree at h
  split at h
  case h_1 hm => exact ⟨.imm, hasForm_of_mode hidx hm (by decide), (himm _).trans h⟩
  case h_2 hm => exact ⟨.abs, hasForm_of_mode hidx hm (by decide), (habs _).trans h⟩
  case h_3 hm => exact ⟨_, hasForm_absIdx hm, (habsIdx ..).trans h⟩
  case h_4 => cases h

theorem decodeOne_eq_some {mode : Nat} {j : Instr} (h : decodeOne f mode j = some i) :
    f.mode.toNat = mode ∧ i = j := by
  unfold decodeOne at h
  split_ifs at h with hm
  exact ⟨hm, (Option.some.inj h).symm⟩

theorem decodeLoad_eq_some (hidx : f.idx = 0 ∨ f.mode = 3) (h : decodeLoad f = some i) :
    ∃ (r : Reg) (m : Form), f.reg = r.code ∧ HasForm f m ∧ loadInstr r m f.arg = i := by
  unfold decodeLoad at h
  split at h
  case h_1 hr => exact ⟨.a, (decodeFive_eq_some hidx h).imp fun _ h => ⟨BitVec.eq_of_toNat_eq hr, h⟩⟩
  case h_2 hr => exact ⟨.x, (decodeFive_eq_some hidx h).imp fun _ h => ⟨BitVec.eq_of_toNat_eq hr, h⟩⟩
  case h_3 hr => exact ⟨.y, (decodeFive_eq_some hidx h).imp fun _ h => ⟨BitVec.eq_of_toNat_eq hr, h⟩⟩
  case h_4 => cases h

theorem decodeStore_eq_some (hidx : f.idx = 0 ∨ f.mode = 3) (h : decodeStore f = some i) :
    ∃ (r : Reg) (m : Form), f.reg = r.code ∧ HasForm f m ∧ storeInstr r m f.arg = some i := by
  unfold decodeStore at h
  split at h
  case h_1 hr =>
    obtain ⟨m, hm, rfl⟩ := decodeFive_eq_some hidx h
    exact ⟨.a, m, BitVec.eq_of_toNat_eq hr, hm, rfl⟩
  case h_2 hr =>
    obtain ⟨m, hm, hi⟩ := decodeThree_eq_some (r := .x) (fun _ => rfl) (fun _ => rfl) (fun _ _ => rfl) hidx h
    exact ⟨.x, m, BitVec.eq_of_toNat_eq hr, hm, hi⟩
  case h_3 hr =>
    obtain ⟨m, hm, hi⟩ := decodeThree_eq_some (r := .y) (fun _ => rfl) (fun _ => rfl) (fun _ _ => rfl) hidx h
    exact ⟨.y, m, BitVec.eq_of_toNat_eq hr, hm, hi⟩
  case h_4 => cases h

/-! ### The encoder's fields -/

theorem encode_loadInstr (r : Reg) (m : Form) (arg : Half) :
    encode (loadInstr r m arg) = pack (regFields 0x01 r m arg) := by
  cases r <;> cases m <;> rfl

theorem encode_storeInstr {r : Reg} {m : Form} {arg : Half} (h : storeInstr r m arg = some i) :
    encode i = pack (regFields 0x02 r m arg) := by
  cases r <;> cases m <;> cases h <;> rfl

theorem encode_incDecInstr (o : IncDecOp) (m : Form) (arg : Half) :
    encode (o.instr m arg) = pack (regFields o.code .a m arg) := by
  cases o <;> cases m <;> rfl

/-- Of a literal the encoder writes one byte, so a wider field would not come back (R55). -/
theorem encode_arithInstr (o : ArithOp) {m : Form} {arg : Half} (h : m = .imm → arg.extractLsb' 8 8 = 0) :
    encode (o.instr m arg) = pack (regFields o.code .a m arg) := by
  cases m with
  | imm =>
    have hlit : (arg.setWidth 8).setWidth 16 = arg := setWidth_of_extract_high (h rfl)
    rw [← hlit, arithInstr_literal]
    cases o <;> rfl
  | abs | absIdx | indX | indY => cases o <;> rfl

theorem encode_logicInstr (o : LogicOp) {m : Form} {arg : Half} (h : m = .imm → arg.extractLsb' 8 8 = 0) :
    encode (o.instr m arg) = pack (regFields o.code .a m arg) := by
  cases m with
  | imm =>
    have hlit : (arg.setWidth 8).setWidth 16 = arg := setWidth_of_extract_high (h rfl)
    rw [← hlit, logicInstr_literal]
    cases o <;> rfl
  | abs | absIdx | indX | indY => cases o <;> rfl

/-! ### The fields of a word that passes the must-be-zero check (R56) -/

theorem eq_ofNat_of_toNat {n k : Nat} {b : BitVec n} (h : b.toNat = k) : b = BitVec.ofNat n k := by
  rw [← h, BitVec.ofNat_toNat, BitVec.setWidth_eq]

/-- Of an operation with a register and a form only `arg` is left open. -/
theorem eq_regFields {op : Nat} {r : Reg} {m : Form} (hz : mustBeZero f = true) (hop : f.op.toNat = op)
    (hne : BitVec.ofNat 8 op ≠ 0x21) (hr : f.reg = r.code) (hm : HasForm f m) :
    f = regFields (BitVec.ofNat 8 op) r m f.arg := by
  obtain ⟨hrsv, -, -, hval, -⟩ := mustBeZero_iff.mp hz
  rw [← eq_ofNat_of_toNat hop] at hne ⊢
  obtain ⟨op, mode, reg, idx, rsv, arg, val⟩ := f
  obtain ⟨rfl, rfl⟩ := hm
  obtain rfl : val = 0 := hval.resolve_right hne
  simp_all [regFields]

/-- Of an operation without a register, in a form without an index, only the two 16-bit fields are left open. -/
theorem eq_bareFields {op mode : Nat} {arg val : Half} (hz : mustBeZero f = true) (hop : f.op.toNat = op)
    (hm : f.mode.toNat = mode)
    (hne : BitVec.ofNat 8 op ≠ 0x01 ∧ BitVec.ofNat 8 op ≠ 0x02 ∧ BitVec.ofNat 4 mode ≠ 3)
    (harg : f.arg = arg) (hval : f.val = val) :
    f = ⟨BitVec.ofNat 8 op, BitVec.ofNat 4 mode, 0, 0, 0, arg, val⟩ := by
  obtain ⟨hrsv, hreg, hidx, -⟩ := mustBeZero_iff.mp hz
  rw [← eq_ofNat_of_toNat hop, ← eq_ofNat_of_toNat hm] at hne ⊢
  obtain ⟨op, mode, reg, idx, rsv, arg, val⟩ := f
  simp_all

/-- In the forms IMP and ACC no field is left open. -/
theorem eq_noOperandFields {op mode : Nat} (hz : mustBeZero f = true) (hop : f.op.toNat = op)
    (hm : f.mode.toNat = mode)
    (hne : BitVec.ofNat 8 op ≠ 0x01 ∧ BitVec.ofNat 8 op ≠ 0x02 ∧ BitVec.ofNat 4 mode ≠ 3)
    (hval : BitVec.ofNat 8 op ≠ 0x21) (hmode : BitVec.ofNat 4 mode = 0 ∨ BitVec.ofNat 4 mode = 6) :
    f = ⟨BitVec.ofNat 8 op, BitVec.ofNat 4 mode, 0, 0, 0, 0, 0⟩ := by
  obtain ⟨-, -, -, hval', harg, -⟩ := mustBeZero_iff.mp hz
  rw [← eq_ofNat_of_toNat hop] at hval
  rw [← eq_ofNat_of_toNat hm] at hmode
  exact eq_bareFields hz hop hm hne (harg hmode) (hval'.resolve_right hval)

/-! ### Decoding loses nothing -/

/-- An operation without a register: the encoder of its forms writes back the fields they were read from. -/
theorem encode_of_form {op : Nat} {instr : Form → Half → Instr} (hz : mustBeZero f = true) (hop : f.op.toNat = op)
    (hne : BitVec.ofNat 8 op ≠ 0x01 ∧ BitVec.ofNat 8 op ≠ 0x02 ∧ BitVec.ofNat 8 op ≠ 0x21)
    (henc : ∀ m, (m = .imm → byteLiteral (BitVec.ofNat 8 op) = true → f.arg.extractLsb' 8 8 = 0) →
      encode (instr m f.arg) = pack (regFields (BitVec.ofNat 8 op) .a m f.arg))
    (h : ∃ m, HasForm f m ∧ instr m f.arg = i) : encode i = pack f := by
  obtain ⟨m, hm, rfl⟩ := h
  obtain ⟨-, hreg, -, -, -, hlit⟩ := mustBeZero_iff.mp hz
  have hf : f.op = BitVec.ofNat 8 op := eq_ofNat_of_toNat hop
  have hr : f.reg = Reg.code .a := hreg.resolve_right (by rw [hf]; exact not_or.mpr ⟨hne.1, hne.2.1⟩)
  have hbyte : m = .imm → byteLiteral (BitVec.ofNat 8 op) = true → f.arg.extractLsb' 8 8 = 0 := by
    rintro rfl hb
    exact hlit hm.1 (byteLiteral_iff.mp (hf ▸ hb))
  rw [henc m hbyte, ← eq_regFields hz hop hne.2.2 hr hm]

/-- A command encodes to the word it was decoded from, operation by operation (R51). -/
theorem encode_of_decodeFields (h : decodeFields f = some i) : encode i = pack f := by
  unfold decodeFields at h
  split_ifs at h with hz
  obtain ⟨-, -, hidx, hval, -⟩ := mustBeZero_iff.mp hz
  unfold decodeOp at h
  split at h
  case h_1 hop =>
    obtain ⟨r, m, hr, hm, rfl⟩ := decodeLoad_eq_some hidx h
    exact (encode_loadInstr r m f.arg).trans (congrArg pack (eq_regFields hz hop (by decide) hr hm).symm)
  case h_2 hop =>
    obtain ⟨r, m, hr, hm, hi⟩ := decodeStore_eq_some hidx h
    exact (encode_storeInstr hi).trans (congrArg pack (eq_regFields hz hop (by decide) hr hm).symm)
  case h_3 hop =>
    exact encode_of_form hz hop (by decide) (fun _ hb => encode_arithInstr .adc (hb · rfl)) (decodeFive_eq_some hidx h)
  case h_4 hop =>
    exact encode_of_form hz hop (by decide) (fun _ hb => encode_arithInstr .sbc (hb · rfl)) (decodeFive_eq_some hidx h)
  case h_5 hop =>
    exact encode_of_form hz hop (by decide) (fun _ _ => encode_incDecInstr .inc _ _) (decodeFive_eq_some hidx h)
  case h_6 hop =>
    exact encode_of_form hz hop (by decide) (fun _ _ => encode_incDecInstr .dec _ _) (decodeFive_eq_some hidx h)
  case h_9 hop =>
    exact encode_of_form hz hop (by decide) (fun _ hb => encode_logicInstr .and (hb · rfl)) (decodeFive_eq_some hidx h)
  case h_10 hop =>
    exact encode_of_form hz hop (by decide) (fun _ hb => encode_logicInstr .ora (hb · rfl)) (decodeFive_eq_some hidx h)
  case h_11 hop =>
    exact encode_of_form hz hop (by decide) (fun _ hb => encode_logicInstr .eor (hb · rfl)) (decodeFive_eq_some hidx h)
  case h_7 hop | h_8 hop =>
    obtain ⟨hm, rfl⟩ := decodeOne_eq_some h
    exact congrArg pack (eq_noOperandFields hz hop hm (by decide) (by decide) (.inl rfl)).symm
  case h_12 hop | h_13 hop | h_14 hop | h_15 hop =>
    obtain ⟨hm, rfl⟩ := decodeOne_eq_some h
    exact congrArg pack (eq_noOperandFields hz hop hm (by decide) (by decide) (.inr rfl)).symm
  case h_16 hop =>
    obtain ⟨hm, rfl⟩ := decodeOne_eq_some h
    have hop' : f.op ≠ 0x21 := fun e => by rw [e] at hop; cases hop
    exact congrArg pack (eq_bareFields hz hop hm (by decide) rfl (hval.resolve_right hop')).symm
  case h_17 hop =>
    obtain ⟨hm, rfl⟩ := decodeOne_eq_some h
    exact congrArg pack (eq_bareFields hz hop hm (by decide) rfl rfl).symm
  case h_18 => cases h


/-! ### Every command's word, and the rows it matches -/

section
open Laws

/-- The two families of laws made per command, for every command. -/
theorem roundTrip_and_matchesRow (i : Instr) : RoundTrip.Statement i ∧ MatchesRow.Statement i := by
  cases i with
  | memrd arg => exact ⟨RoundTrip.memrd arg, MatchesRow.memrd arg⟩
  | memwr arg val => exact ⟨RoundTrip.memwr arg val, MatchesRow.memwr arg val⟩
  | ldaImm arg => exact ⟨RoundTrip.ldaImm arg, MatchesRow.ldaImm arg⟩
  | ldaAbs arg => exact ⟨RoundTrip.ldaAbs arg, MatchesRow.ldaAbs arg⟩
  | ldaAbsIdx idx arg => exact ⟨RoundTrip.ldaAbsIdx idx arg, MatchesRow.ldaAbsIdx idx arg⟩
  | ldaIndX arg => exact ⟨RoundTrip.ldaIndX arg, MatchesRow.ldaIndX arg⟩
  | ldaIndY arg => exact ⟨RoundTrip.ldaIndY arg, MatchesRow.ldaIndY arg⟩
  | ldxImm arg => exact ⟨RoundTrip.ldxImm arg, MatchesRow.ldxImm arg⟩
  | ldxAbs arg => exact ⟨RoundTrip.ldxAbs arg, MatchesRow.ldxAbs arg⟩
  | ldxAbsIdx idx arg => exact ⟨RoundTrip.ldxAbsIdx idx arg, MatchesRow.ldxAbsIdx idx arg⟩
  | ldxIndX arg => exact ⟨RoundTrip.ldxIndX arg, MatchesRow.ldxIndX arg⟩
  | ldxIndY arg => exact ⟨RoundTrip.ldxIndY arg, MatchesRow.ldxIndY arg⟩
  | ldyImm arg => exact ⟨RoundTrip.ldyImm arg, MatchesRow.ldyImm arg⟩
  | ldyAbs arg => exact ⟨RoundTrip.ldyAbs arg, MatchesRow.ldyAbs arg⟩
  | ldyAbsIdx idx arg => exact ⟨RoundTrip.ldyAbsIdx idx arg, MatchesRow.ldyAbsIdx idx arg⟩
  | ldyIndX arg => exact ⟨RoundTrip.ldyIndX arg, MatchesRow.ldyIndX arg⟩
  | ldyIndY arg => exact ⟨RoundTrip.ldyIndY arg, MatchesRow.ldyIndY arg⟩
  | staImm arg => exact ⟨RoundTrip.staImm arg, MatchesRow.staImm arg⟩
  | staAbs arg => exact ⟨RoundTrip.staAbs arg, MatchesRow.staAbs arg⟩
  | staAbsIdx idx arg => exact ⟨RoundTrip.staAbsIdx idx arg, MatchesRow.staAbsIdx idx arg⟩
  | staIndX arg => exact ⟨RoundTrip.staIndX arg, MatchesRow.staIndX arg⟩
  | staIndY arg => exact ⟨RoundTrip.staIndY arg, MatchesRow.staIndY arg⟩
  | stxImm arg => exact ⟨RoundTrip.stxImm arg, MatchesRow.stxImm arg⟩
  | stxAbs arg => exact ⟨RoundTrip.stxAbs arg, MatchesRow.stxAbs arg⟩
  | stxAbsIdx idx arg => exact ⟨RoundTrip.stxAbsIdx idx arg, MatchesRow.stxAbsIdx idx arg⟩
  | styImm arg => exact ⟨RoundTrip.styImm arg, MatchesRow.styImm arg⟩
  | styAbs arg => exact ⟨RoundTrip.styAbs arg, MatchesRow.styAbs arg⟩
  | styAbsIdx idx arg => exact ⟨RoundTrip.styAbsIdx idx arg, MatchesRow.styAbsIdx idx arg⟩
  | adcImm m => exact ⟨RoundTrip.adcImm m, MatchesRow.adcImm m⟩
  | adcAbs arg => exact ⟨RoundTrip.adcAbs arg, MatchesRow.adcAbs arg⟩
  | adcAbsIdx idx arg => exact ⟨RoundTrip.adcAbsIdx idx arg, MatchesRow.adcAbsIdx idx arg⟩
  | adcIndX arg => exact ⟨RoundTrip.adcIndX arg, MatchesRow.adcIndX arg⟩
  | adcIndY arg => exact ⟨RoundTrip.adcIndY arg, MatchesRow.adcIndY arg⟩
  | sbcImm m => exact ⟨RoundTrip.sbcImm m, MatchesRow.sbcImm m⟩
  | sbcAbs arg => exact ⟨RoundTrip.sbcAbs arg, MatchesRow.sbcAbs arg⟩
  | sbcAbsIdx idx arg => exact ⟨RoundTrip.sbcAbsIdx idx arg, MatchesRow.sbcAbsIdx idx arg⟩
  | sbcIndX arg => exact ⟨RoundTrip.sbcIndX arg, MatchesRow.sbcIndX arg⟩
  | sbcIndY arg => exact ⟨RoundTrip.sbcIndY arg, MatchesRow.sbcIndY arg⟩
  | incImm arg => exact ⟨RoundTrip.incImm arg, MatchesRow.incImm arg⟩
  | incAbs arg => exact ⟨RoundTrip.incAbs arg, MatchesRow.incAbs arg⟩
  | incAbsIdx idx arg => exact ⟨RoundTrip.incAbsIdx idx arg, MatchesRow.incAbsIdx idx arg⟩
  | incIndX arg => exact ⟨RoundTrip.incIndX arg, MatchesRow.incIndX arg⟩
  | incIndY arg => exact ⟨RoundTrip.incIndY arg, MatchesRow.incIndY arg⟩
  | decImm arg => exact ⟨RoundTrip.decImm arg, MatchesRow.decImm arg⟩
  | decAbs arg => exact ⟨RoundTrip.decAbs arg, MatchesRow.decAbs arg⟩
  | decAbsIdx idx arg => exact ⟨RoundTrip.decAbsIdx idx arg, MatchesRow.decAbsIdx idx arg⟩
  | decIndX arg => exact ⟨RoundTrip.decIndX arg, MatchesRow.decIndX arg⟩
  | decIndY arg => exact ⟨RoundTrip.decIndY arg, MatchesRow.decIndY arg⟩
  | clc => exact ⟨RoundTrip.clc, MatchesRow.clc⟩
  | sec => exact ⟨RoundTrip.sec, MatchesRow.sec⟩
  | andImm m => exact ⟨RoundTrip.andImm m, MatchesRow.andImm m⟩
  | andAbs arg => exact ⟨RoundTrip.andAbs arg, MatchesRow.andAbs arg⟩
  | andAbsIdx idx arg => exact ⟨RoundTrip.andAbsIdx idx arg, MatchesRow.andAbsIdx idx arg⟩
  | andIndX arg => exact ⟨RoundTrip.andIndX arg, MatchesRow.andIndX arg⟩
  | andIndY arg => exact ⟨RoundTrip.andIndY arg, MatchesRow.andIndY arg⟩
  | oraImm m => exact ⟨RoundTrip.oraImm m, MatchesRow.oraImm m⟩
  | oraAbs arg => exact ⟨RoundTrip.oraAbs arg, MatchesRow.oraAbs arg⟩
  | oraAbsIdx idx arg => exact ⟨RoundTrip.oraAbsIdx idx arg, MatchesRow.oraAbsIdx idx arg⟩
  | oraIndX arg => exact ⟨RoundTrip.oraIndX arg, MatchesRow.oraIndX arg⟩
  | oraIndY arg => exact ⟨RoundTrip.oraIndY arg, MatchesRow.oraIndY arg⟩
  | eorImm m => exact ⟨RoundTrip.eorImm m, MatchesRow.eorImm m⟩
  | eorAbs arg => exact ⟨RoundTrip.eorAbs arg, MatchesRow.eorAbs arg⟩
  | eorAbsIdx idx arg => exact ⟨RoundTrip.eorAbsIdx idx arg, MatchesRow.eorAbsIdx idx arg⟩
  | eorIndX arg => exact ⟨RoundTrip.eorIndX arg, MatchesRow.eorIndX arg⟩
  | eorIndY arg => exact ⟨RoundTrip.eorIndY arg, MatchesRow.eorIndY arg⟩
  | aslAcc => exact ⟨RoundTrip.aslAcc, MatchesRow.aslAcc⟩
  | lsrAcc => exact ⟨RoundTrip.lsrAcc, MatchesRow.lsrAcc⟩
  | rolAcc => exact ⟨RoundTrip.rolAcc, MatchesRow.rolAcc⟩
  | rorAcc => exact ⟨RoundTrip.rorAcc, MatchesRow.rorAcc⟩

end

/-- A word decodes to a command exactly when the command is admitted and encodes to it (R57, R59). -/
theorem decode_eq_some_iff_encode {w : CommandWord} :
    decode cfg w = some i ↔ i.wellFormed cfg = true ∧ w = encode i := by
  constructor
  · intro h
    obtain ⟨hd, hw⟩ := decode_eq_some.mp h
    exact ⟨hw, (pack_fieldsOf w).symm.trans (encode_of_decodeFields hd).symm⟩
  · rintro ⟨hw, rfl⟩
    exact (roundTrip_and_matchesRow i).1 cfg hw

/-! ### The rows of the opcode table -/

/-- A mask that leaves open only what a command of its row may have there: `idx` in the indexed form, the low byte or
all of `arg`, and `val` for MEMWR (R54 to R56, R64). -/
def TableRow.MaskFixes (r : TableRow) : Prop :=
  let p := fieldsOf r.pattern
  let m := fieldsOf r.mask
  m.op = BitVec.allOnes 8 ∧ m.mode = BitVec.allOnes 4 ∧ m.reg = BitVec.allOnes 2 ∧ m.rsv = BitVec.allOnes 1 ∧
    (m.idx = BitVec.allOnes 1 ∨ p.mode = 3) ∧ (m.val = BitVec.allOnes 16 ∨ p.op = 0x21) ∧
    (p.mode = 0 ∨ p.mode = 6 → m.arg = BitVec.allOnes 16) ∧
    (p.mode = 1 → byteLiteral p.op = true → m.arg.extractLsb' 8 8 = BitVec.allOnes 8)

/-- The row's pattern, whose open bits are zero, is itself a command, with the row's parameter. -/
def TableRow.PatternDecodes (r : TableRow) : Prop :=
  (decodeFields (fieldsOf r.pattern)).map Instr.admission = some r.param

theorem maskFixes_of_mem : ∀ r ∈ opcodeTable, r.MaskFixes := by
  unfold TableRow.MaskFixes
  decide

theorem patternDecodes_of_mem : ∀ r ∈ opcodeTable, r.PatternDecodes := by
  unfold TableRow.PatternDecodes
  decide

/-- The fields that tell the rows apart (R51 to R53). -/
def headFields (w : CommandWord) : BitVec 8 × BitVec 4 × BitVec 2 :=
  ((fieldsOf w).op, (fieldsOf w).mode, (fieldsOf w).reg)

theorem nodup_headFields : (opcodeTable.map fun r => headFields r.pattern).Nodup := by
  decide

theorem fieldsOf_and (w m : CommandWord) : fieldsOf (w &&& m) =
    ⟨(fieldsOf w).op &&& (fieldsOf m).op, (fieldsOf w).mode &&& (fieldsOf m).mode,
      (fieldsOf w).reg &&& (fieldsOf m).reg, (fieldsOf w).idx &&& (fieldsOf m).idx,
      (fieldsOf w).rsv &&& (fieldsOf m).rsv, (fieldsOf w).arg &&& (fieldsOf m).arg,
      (fieldsOf w).val &&& (fieldsOf m).val⟩ := by
  simp only [fieldsOf, BitVec.extractLsb'_and]

variable {r : TableRow} {w : CommandWord}

/-- A word of a row has the row's `op`, `mode` and `reg`. -/
theorem headFields_of_holds (hr : r ∈ opcodeTable) (h : r.holds w = true) : headFields w = headFields r.pattern := by
  obtain ⟨hop, hmode, hreg, -⟩ := maskFixes_of_mem r hr
  rw [TableRow.holds, beq_iff_eq] at h
  simp only [headFields, ← h, fieldsOf_and, hop, hmode, hreg, BitVec.and_allOnes]

/-- A word of a row has zero where its pattern must have zero (R56). -/
theorem mustBeZero_of_holds (hr : r ∈ opcodeTable) (h : r.holds w = true)
    (hp : mustBeZero (fieldsOf r.pattern) = true) : mustBeZero (fieldsOf w) = true := by
  obtain ⟨hop, hmode, hreg, hrsv, hidx, hval, harg, hlit⟩ := maskFixes_of_mem r hr
  rw [TableRow.holds, beq_iff_eq] at h
  have hf := fieldsOf_and w r.mask
  rw [h] at hf
  rw [mustBeZero_iff] at hp ⊢
  simp only [hf, hop, hmode, hreg, hrsv, BitVec.and_allOnes, BitVec.extractLsb'_and] at hp hidx hval harg hlit
  obtain ⟨zrsv, zreg, zidx, zval, zarg, zlit⟩ := hp
  refine ⟨zrsv, zreg, ?_, ?_, fun hm => ?_, fun hm hb => ?_⟩
  · rcases hidx with hidx | hidx
    · simpa only [hidx, BitVec.and_allOnes] using zidx
    · exact .inr hidx
  · rcases hval with hval | hval
    · simpa only [hval, BitVec.and_allOnes] using zval
    · exact .inr hval
  · simpa only [harg hm, BitVec.and_allOnes] using zarg hm
  · simpa only [hlit hm (byteLiteral_iff.mpr hb), BitVec.and_allOnes] using zlit hm hb

/-- The tables of the decoder look at `op`, `mode` and `reg` only. -/
theorem decodesIn_decodeOp_of_headFields {w' : CommandWord} (h : headFields w = headFields w') :
    DecodesIn cfg (decodeOp (fieldsOf w)) ↔ DecodesIn cfg (decodeOp (fieldsOf w')) := by
  obtain ⟨hop, hmode, hreg⟩ : (fieldsOf w).op = (fieldsOf w').op ∧ (fieldsOf w).mode = (fieldsOf w').mode ∧
      (fieldsOf w).reg = (fieldsOf w').reg := by simpa [headFields] using h
  rw [decodesIn_decodeOp, decodesIn_decodeOp, hop, hmode, hreg]

theorem exists_decode_of_holds (hr : r ∈ opcodeTable) (ha : cfg.admits r.param = true) (h : r.holds w = true) :
    ∃ i, decode cfg w = some i := by
  obtain ⟨i, hi, hadm⟩ := Option.map_eq_some_iff.mp (patternDecodes_of_mem r hr)
  have hp : DecodesIn cfg (decodeFields (fieldsOf r.pattern)) := ⟨i, hi, by rw [Instr.wellFormed, hadm, ha]⟩
  obtain ⟨hz, hd⟩ := decodesIn_decodeFields.mp hp
  rw [exists_decode_iff, decodesIn_decodeFields]
  exact ⟨mustBeZero_of_holds hr h hz, (decodesIn_decodeOp_of_headFields (headFields_of_holds hr h)).mpr hd⟩

/-- The word of an admitted command is one of a row whose parameter is true (R64). -/
theorem exists_row_of_decode (h : decode cfg w = some i) :
    ∃ r ∈ opcodeTable, cfg.admits r.param = true ∧ r.holds w = true := by
  obtain ⟨hw, rfl⟩ := decode_eq_some_iff_encode.mp h
  obtain ⟨r, hr, hp, hholds⟩ := (roundTrip_and_matchesRow i).2
  exact ⟨r, hr, hp ▸ hw, hholds⟩

theorem row_unique {j k : Nat} (hj : j < opcodeTable.length) (hk : k < opcodeTable.length)
    (h : opcodeTable[j].holds w = true) (h' : opcodeTable[k].holds w = true) : j = k := by
  have hhead : headFields opcodeTable[j].pattern = headFields opcodeTable[k].pattern :=
    (headFields_of_holds (List.getElem_mem hj) h).symm.trans (headFields_of_holds (List.getElem_mem hk) h')
  refine (nodup_headFields.getElem_inj_iff (hi := by simpa using hj) (hj := by simpa using hk)).mp ?_
  simpa only [List.getElem_map] using hhead

end Sys2Proof

open Sys2Proof Sys2Proof.Machine

/-- Settles O2: the decoder reads back every command's word, and a command encodes to the word it was decoded from,
because every bit the decoder does not carry over must be zero (R56). -/
theorem decodeIsInverseOfEncode : Obligations.DecodeIsInverseOfEncode := by
  unfold Obligations.DecodeIsInverseOfEncode
  exact fun _ _ _ => decode_eq_some_iff_encode

/-- Settles O4: a command's word matches its row, and a word that matches a row has the pattern's `op`, `mode` and `reg`
and zero where the decoder asks for it; no two patterns agree on those three fields. -/
theorem opcodeTableDecidesLegality : Obligations.OpcodeTableDecidesLegality := by
  unfold Obligations.OpcodeTableDecidesLegality
  refine ⟨fun cfg w => ⟨fun ⟨i, hi⟩ => exists_row_of_decode hi, ?_⟩, rfl, fun j k hj hk w => row_unique hj hk⟩
  rintro ⟨r, hr, ha, h⟩
  exact exists_decode_of_holds hr ha h

/-- Settles O1: twelve closed decodings. -/
theorem exampleWordsDecode : Obligations.ExampleWordsDecode := by
  unfold Obligations.ExampleWordsDecode
  decide

end

section
/-!
The step and the invariant it keeps: what one step does with each host action (00_scope.md R8, 20_memory.md R30), the
bounds and the canonical memory every state has, and the run in which no command fails (60_exceptions.md R189).
-/

namespace Sys2Proof.Machine

variable {s t : State} {es : List HostEvent}

/-! ### One step, by the oldest host action -/

theorem step_idle (hw : s.cfg.wellFormed = true) (he : s.events = []) : step s = .next s := by
  rw [step, if_pos hw, takeEvent, he]

theorem step_decoded {w : CommandWord} {i : Instr} (hw : s.cfg.wellFormed = true) (he : s.events = .command w :: es)
    (hd : decode s.cfg w = some i) : step s = exec i (s.putEvents es) := by
  have hd' : decode (s.putEvents es).cfg w = some i := hd
  rw [step_event hw he, runEvent, runCommand, hd']

/-- Every host action is done, but for a ResetAll whose configuration is out of bounds (log entry 8). -/
theorem exists_step (hw : s.cfg.wellFormed = true)
    (hr : ∀ cfg es, s.events = .resetAll cfg :: es → cfg.wellFormed = true) : ∃ t, step s = .next t := by
  cases he : s.events with
  | nil => exact ⟨s, step_idle hw he⟩
  | cons e es =>
    cases e with
    | command w =>
      obtain ⟨t, ht, -⟩ := step_command hw he
      exact ⟨t, ht⟩
    | resetCore => exact ⟨_, step_resetCore hw he⟩
    | resetAll cfg => exact ⟨_, step_resetAll hw (hr cfg es he) he⟩

/-- A ResetAll that is done carried a configuration within bounds. -/
theorem wellFormed_of_step_resetAll {cfg : Config} (h : step s = .next t) (he : s.events = .resetAll cfg :: es) :
    cfg.wellFormed = true := by
  obtain ⟨hw, -⟩ := step_cases h
  rw [step_event hw he, runEvent] at h
  split_ifs at h with hc
  exact hc

/-! ### The invariant -/

theorem memSize_ge_of_wellFormed {cfg : Config} (h : cfg.wellFormed = true) : 0x1001 ≤ cfg.memSize := by
  simp only [Config.wellFormed, Bool.and_eq_true, decide_eq_true_eq] at h
  exact h.1

theorem errOk_le_four : errOk.toNat ≤ 4 := by decide

theorem errCode_le_four (e : Err) : e.code.toNat ≤ 4 := by cases e <;> decide

/-- The invariant reads the configuration, memory and the response only. -/
theorem inv_of_frame (hs : s.Inv) (hcfg : t.cfg = s.cfg) (hmem : t.mem = s.mem)
    (hresp : ∀ r, t.resp = some r → r.err.toNat ≤ 4) : t.Inv where
  cfgWellFormed := hcfg ▸ hs.cfgWellFormed
  memCanonical := hmem ▸ hs.memCanonical
  memInRange := by rw [hmem, hcfg]; exact hs.memInRange
  respCode := hresp

theorem inv_answer (hs : s.Inv) {e : BitVec 3} (he : e.toNat ≤ 4) : (s.answer e).Inv :=
  inv_of_frame hs rfl rfl fun _ h => by cases h; exact he

/-- A write at a valid address keeps memory canonical and lists only cells that exist (R32, R33). -/
theorem inv_putMem (hs : s.Inv) {a : Nat} (ha : a < s.cfg.memSize) (b : Byte) :
    (s.putMem (s.mem.writeMirrored a b)).Inv where
  cfgWellFormed := hs.cfgWellFormed
  memCanonical := memory_wf_writeMirrored hs.memCanonical a b
  memInRange := memory_below_writeMirrored hs.memInRange (memSize_ge_of_wellFormed hs.cfgWellFormed) ha b
  respCode := hs.respCode

theorem inv_written (hs : s.Inv) (r : Reg) (b : Byte) (c v : Bool) :
    (({ s with c := c, v := v } : State).written r b).Inv :=
  inv_of_frame hs (written_cfg ..) (written_mem ..) (by cases r <;> exact hs.respCode)

theorem inv_of_effect {i : Instr} (hs : s.Inv) (h : Effect i s t) : t.Inv := by
  cases h with
  | data => exact inv_of_frame hs rfl rfl fun _ h => by cases h; exact errOk_le_four
  | register r b c v => exact inv_answer (inv_written hs r b c v) errOk_le_four
  | carry c => exact inv_of_frame hs rfl rfl fun _ h => by cases h; exact errOk_le_four
  | memory f arg a b _ _ ha => exact inv_answer (inv_putMem hs ha b) errOk_le_four
  | registerOverflow | memoryOverflow | outOfRange => exact inv_answer hs (errCode_le_four _)

theorem inv_putEvents (hs : s.Inv) (es : List HostEvent) : (s.putEvents es).Inv :=
  inv_of_frame hs rfl rfl hs.respCode

theorem inv_resetAll {cfg : Config} (h : cfg.wellFormed = true) (s : State) : (resetAll cfg s).Inv where
  cfgWellFormed := h
  memCanonical := rfl
  memInRange := rfl
  respCode := nofun

theorem step_keeps_inv (hs : s.Inv) (h : step s = .next t) : t.Inv := by
  obtain ⟨-, ⟨-, rfl⟩ | ⟨es, ⟨w, i, -, -, hx⟩ | ⟨w, -, -, rfl⟩ | ⟨-, rfl⟩ | ⟨cfg, -, hc, rfl⟩⟩⟩ := step_cases h
  case inl => exact hs
  case inr.inl => exact inv_of_effect (inv_putEvents hs es) (effect_of_exec hx)
  case inr.inr.inl => exact inv_answer (inv_putEvents hs es) (errCode_le_four _)
  case inr.inr.inr.inl => exact inv_of_frame hs rfl rfl nofun
  case inr.inr.inr.inr => exact inv_resetAll hc _

/-- A run whose every step answers a next state goes to its end, and the invariant with it. -/
theorem core_run_safe (k : Nat) (hs : s.Inv) (h : SafeRun k s) : ∃ t : State, core.run k s = .next t ∧ t.Inv := by
  induction k generalizing s with
  | zero => exact ⟨s, rfl, hs⟩
  | succ k ih =>
    obtain ⟨u, hu, -, hsafe⟩ := h
    obtain ⟨t, ht, hinv⟩ := ih (step_keeps_inv hs hu) hsafe
    exact ⟨t, (core_run_succ k hu).trans ht, hinv⟩

end Sys2Proof.Machine

open Sys2Proof Sys2Proof.Machine

/-- Settles O11: a command writes memory only at a valid address, through the mirrored write that keeps it canonical and
in range, and its response carries one of the codes 0 to 4; the other cases of a step leave memory or empty it. -/
theorem stepKeepsInvariant : Obligations.StepKeepsInvariant := by
  unfold Obligations.StepKeepsInvariant
  exact fun _ _ hs h => step_keeps_inv hs h

/-- Settles O10: each host action is done in a configuration within bounds, and only a ResetAll brings another. -/
theorem stepStopsOnlyOnConfigurationsOutOfBounds : Obligations.StepStopsOnlyOnConfigurationsOutOfBounds := by
  unfold Obligations.StepStopsOnlyOnConfigurationsOutOfBounds
  refine fun s => ⟨fun ⟨t, h⟩ => ⟨(step_cases h).1, fun _ _ he => wellFormed_of_step_resetAll h he⟩, ?_⟩
  rintro ⟨hw, hr⟩
  exact exists_step hw hr

/-- Settles O13, by induction on the length of the run: each step keeps the invariant. -/
theorem safeRunsReachInvariantStates : Obligations.SafeRunsReachInvariantStates := by
  unfold Obligations.SafeRunsReachInvariantStates
  exact fun k _ hs h => core_run_safe k hs h

/-- Settles O5: taking the action away leaves the configuration, so the word decodes as it did. -/
theorem stepRunsDecodedCommand : Obligations.StepRunsDecodedCommand := by
  unfold Obligations.StepRunsDecodedCommand
  exact fun _ _ _ _ hw he hd => step_decoded hw he hd

/-- Settles O6, by the one step an undecoded word takes. -/
theorem stepAnswersIllegalCommand : Obligations.StepAnswersIllegalCommand := by
  unfold Obligations.StepAnswersIllegalCommand
  exact fun _ _ _ hw he hd => ⟨_, _, step_undecoded hw he hd⟩

/-- Settles O9, by the step with an empty list of actions. -/
theorem idleStepChangesNothing : Obligations.IdleStepChangesNothing := by
  unfold Obligations.IdleStepChangesNothing
  exact fun _ hw he => step_idle hw he

/-- Settles O12: reset is a ResetAll in the default configuration, which is within bounds. -/
theorem resetMeetsInvariant : Obligations.ResetMeetsInvariant := by
  unfold Obligations.ResetMeetsInvariant
  exact inv_resetAll (cfg := Config.default) (by decide) State.reset

end

section
/-!
What a command reads and writes (10_state.md R11, R13, 60_exceptions.md R188): the tables' frame, and that `V`, `Z`, `N`
and what an earlier command answered are read by none.
-/

namespace Sys2Proof.Machine

variable {i : Instr} {s t : State} {r : Reg} {f : Form} {arg : Half}

/-! ### The action of a command -/

/-- `s`, with the fields no command reads taken from `u`. -/
def State.unreadFrom (s u : State) : State :=
  { s with v := u.v, z := u.z, n := u.n, events := u.events, resp := u.resp, freeCtr := u.freeCtr }

/-- What a command does, apart from the state it does it to: an OK MEMRD, a register write with the `C` it leaves and
the `V` it writes, a carry write, a memory write, or an error. -/
inductive Action where
  | data (b : Byte)
  | register (r : Reg) (b : Byte) (c : Bool) (v : Option Bool)
  | carry (c : Bool)
  | memory (m : Memory)
  | error (e : Err)

/-- The state an action leaves, answered. -/
def Action.apply (s : State) : Action → State
  | .data b => s.answerData b
  | .register r b c v => (({ s with c := c, v := v.getD s.v } : State).written r b).answer errOk
  | .carry c => (s.putC c).answer errOk
  | .memory m => (s.putMem m).answer errOk
  | .error e => s.answer e.code

/-- A completed command whose table says that it writes a register, or `V`, has an action that does (R11, R13). -/
def Action.Fits (i : Instr) : Action → Prop
  | .register _ _ _ v => i.writesV = true → v.isSome = true
  | .data _ | .carry _ | .memory _ => i.regWritten = none ∧ i.writesV = false
  | .error _ => True

theorem apply_failed {act : Action} (h : ¬ (act.apply s).answered 0) : ∃ e, act = .error e := by
  cases act with
  | error e => exact ⟨e, rfl⟩
  | data | register | carry | memory => exact absurd rfl h

/-- An answer replaces the response, whatever stood on the port. -/
theorem apply_resp (act : Action) (s : State) (p : Option Response) :
    act.apply { s with resp := p } = act.apply s := by
  cases act with
  | register r => cases r <;> rfl
  | data | carry | memory | error => rfl

/-! ### Meanings with one action -/

/-- One action, the same whatever the unread fields hold. -/
def Determined (i : Instr) (s : State) (o : State → Result) : Prop :=
  ∃ act : Action, act.Fits i ∧ ∀ u, o (s.unreadFrom u) = .next (act.apply (s.unreadFrom u))

/-- A meaning, concluded. -/
def DeterminedMeaning (i : Instr) (s : State) (m : State → Except Err State) : Prop :=
  Determined i s fun s => conclude s (m s)

theorem determined_error (e : Err) : DeterminedMeaning i s fun _ => .error e := ⟨.error e, trivial, fun _ => rfl⟩

theorem determined_congr {m m' : State → Except Err State} (h : ∀ u, m (s.unreadFrom u) = m' (s.unreadFrom u))
    (hm' : DeterminedMeaning i s m') : DeterminedMeaning i s m := by
  obtain ⟨act, hact, ha⟩ := hm'
  exact ⟨act, hact, fun u => by simpa only [h] using ha u⟩

/-- A value that is read from what commands read, then a meaning for each value. -/
theorem determined_bind {α : Type} {x : State → Except Err α} {k : α → State → Except Err State}
    (hx : ∀ u, x (s.unreadFrom u) = x s) (hk : ∀ a, DeterminedMeaning i s (k a)) :
    DeterminedMeaning i s fun s => (x s).bind fun a => k a s := by
  cases h : x s with
  | error e => exact determined_congr (fun u => by rw [hx, h]; rfl) (determined_error e)
  | ok a => exact determined_congr (fun u => by rw [hx, h]; rfl) (hk a)

/-- A meaning that completes with the states of one action. -/
theorem determined_ok {m : State → Except Err State} {act : Action} {t : State → State} (hact : act.Fits i)
    (hm : ∀ u, m (s.unreadFrom u) = .ok (t u)) (ht : ∀ u, (t u).answer errOk = act.apply (s.unreadFrom u)) :
    DeterminedMeaning i s m :=
  ⟨act, hact, fun u => by simp only [hm, conclude, ht]⟩

/-- SetReg, after a carry write (R14). -/
theorem determined_setReg (r : Reg) (v : Nat) (c : Bool) (hv : i.writesV = false) :
    DeterminedMeaning i s fun s => setReg r v (s.putC c) := by
  by_cases h : v ≤ 255
  · have hfits : (Action.register r (BitVec.ofNat 8 v) c none).Fits i := fun h => Bool.noConfusion (hv.symm.trans h)
    exact determined_ok hfits (fun _ => setReg_ok _ r h) fun _ => rfl
  · exact determined_congr (fun _ => setReg_overflow _ r (by omega)) (determined_error .registerOverflow)

/-- MemWrite (R32). -/
theorem determined_memWrite (a : Nat) (v : Int) (hr : i.regWritten = none) (hv : i.writesV = false) :
    DeterminedMeaning i s fun s => memWrite s a v := by
  by_cases hval : v < 0 ∨ 255 < v
  · exact determined_congr (fun _ => memWrite_overflow hval) (determined_error .memoryOverflow)
  by_cases ha : s.cfg.memSize ≤ a
  · have hm (u : State) : memWrite (s.unreadFrom u) a v = .error .outOfRange :=
      memWrite_outOfRange (by omega) (by omega) ha
    exact determined_congr hm (determined_error .outOfRange)
  · have hm (u : State) : memWrite (s.unreadFrom u) a v =
        .ok ((s.unreadFrom u).putMem (s.mem.writeMirrored a (BitVec.ofInt 8 v))) := by
      rw [memWrite, if_neg hval]
      exact if_neg ha
    exact determined_ok (act := .memory _) ⟨hr, hv⟩ hm fun _ => rfl

/-- What ADC and SBC leave is a register write with `C` and `V`, of the same values (R110, R111). -/
theorem afterArith_unreadFrom (o : ArithOp) (m : Byte) (u : State) : (s.unreadFrom u).afterArith o m =
    ({ s.unreadFrom u with c := (s.afterArith o m).c, v := (s.afterArith o m).v } : State).written .a
      (s.afterArith o m).a := by
  have hcfg : (s.unreadFrom u).cfg = s.cfg := rfl
  cases o with
  | adc => cases hp : s.cfg.arithProfile <;> simp only [State.afterArith, State.afterAdc, hcfg, hp] <;> rfl
  | sbc => cases hp : s.cfg.arithProfile <;> simp only [State.afterArith, State.afterSbc, hcfg, hp] <;> rfl

theorem determined_afterArith (o : ArithOp) (m : Byte) : DeterminedMeaning i s fun s => .ok (s.afterArith o m) :=
  determined_ok (act := .register .a _ _ (some _)) (fun _ => rfl)
    (fun u => congrArg Except.ok (afterArith_unreadFrom o m u)) fun _ => rfl

/-! ### The fields that resolving an operand reads -/

theorem ea_unreadFrom (f : Form) (arg : Half) (u : State) : ea f arg (s.unreadFrom u) = ea f arg s := by
  cases f <;> rfl

theorem loadValue_unreadFrom (f : Form) (arg : Half) (u : State) :
    loadValue f arg (s.unreadFrom u) = loadValue f arg s := by
  cases f <;> rfl

theorem operand_unreadFrom (f : Form) (arg : Half) (u : State) :
    operand f arg (s.unreadFrom u) = operand f arg s := by
  cases f <;> rfl

theorem reg_unreadFrom (r : Reg) (u : State) : (s.unreadFrom u).reg r = s.reg r := by cases r <;> rfl

/-! ### The shared meanings -/

theorem determined_load (hv : i.writesV = false) : DeterminedMeaning i s (load r f arg) :=
  determined_bind (loadValue_unreadFrom f arg) fun v =>
    determined_congr (fun _ => rfl) (determined_setReg r v s.c hv)

theorem determined_store (hr : i.regWritten = none) (hv : i.writesV = false) :
    DeterminedMeaning i s (store r f arg) :=
  determined_bind (ea_unreadFrom f arg) fun a =>
    determined_congr (fun u => by rw [reg_unreadFrom]) (determined_memWrite a (s.reg r).toNat hr hv)

theorem determined_arith (o : ArithOp) : DeterminedMeaning i s (arith o f arg) := by
  have h (m : Byte) : DeterminedMeaning i s fun s => .ok (s.afterArith o m) := determined_afterArith o m
  cases o with
  | adc => exact determined_bind (operand_unreadFrom f arg) fun m => determined_congr (fun _ => adcCore_ok m _) (h m)
  | sbc => exact determined_bind (operand_unreadFrom f arg) fun m => determined_congr (fun _ => sbcCore_ok m _) (h m)

theorem determined_incDec (o : IncDecOp) (hr : i.regWritten = none) (hv : i.writesV = false) :
    DeterminedMeaning i s (incDec o f arg) := by
  refine determined_bind (ea_unreadFrom f arg) fun a => ?_
  cases o with
  | inc =>
    exact determined_bind (fun _ => rfl) fun b => determined_congr (fun _ => rfl)
      (determined_memWrite a (edgeValue s.cfg.incDecEdge (b.toNat + 1)) hr hv)
  | dec =>
    exact determined_bind (fun _ => rfl) fun b => determined_congr (fun _ => rfl)
      (determined_memWrite a (edgeValue s.cfg.incDecEdge (b.toNat - 1)) hr hv)

theorem determined_logic (o : LogicOp) (hv : i.writesV = false) : DeterminedMeaning i s (logic o f arg) := by
  have hset (v : Nat) : DeterminedMeaning i s fun s' => setReg .a v (s'.putC s.c) := determined_setReg .a v s.c hv
  cases o with
  | and =>
    exact determined_bind (operand_unreadFrom f arg) fun m =>
      determined_congr (fun _ => rfl) (hset (s.a.toNat &&& m.toNat))
  | ora =>
    exact determined_bind (operand_unreadFrom f arg) fun m =>
      determined_congr (fun _ => rfl) (hset (s.a.toNat ||| m.toNat))
  | eor =>
    exact determined_bind (operand_unreadFrom f arg) fun m =>
      determined_congr (fun _ => rfl) (hset (s.a.toNat ^^^ m.toNat))

theorem determined_shift (out : State → Bool) (res : State → Nat)
    (hout : ∀ u, out (s.unreadFrom u) = out s) (hres : ∀ u, res (s.unreadFrom u) = res s) (hv : i.writesV = false) :
    DeterminedMeaning i s fun s => shift (out s) (res s) s :=
  determined_congr (fun u => by rw [hout, hres]; rfl) (determined_setReg .a (res s) (out s) hv)

theorem determined_memrd (arg : Half) : Determined (.memrd arg) s (exec (.memrd arg)) := by
  by_cases h : arg.toNat < s.cfg.memSize
  · exact ⟨.data (s.mem.read arg.toNat), ⟨rfl, rfl⟩, fun u => exec_memrd_ok h⟩
  · exact ⟨.error .outOfRange, trivial, fun u => exec_memrd_outOfRange (Nat.le_of_not_lt h)⟩

/-- Every command has one action, whatever the unread fields hold. -/
theorem exec_determined (i : Instr) (s : State) : Determined i s (exec i) := by
  cases i with
  | memrd arg => exact determined_memrd arg
  | memwr arg val => exact determined_memWrite arg.toNat val.toNat rfl rfl
  | ldaImm | ldaAbs | ldaAbsIdx | ldaIndX | ldaIndY | ldxImm | ldxAbs | ldxAbsIdx | ldxIndX | ldxIndY | ldyImm | ldyAbs
  | ldyAbsIdx | ldyIndX | ldyIndY => exact determined_load rfl
  | staImm | staAbs | staAbsIdx | staIndX | staIndY | stxImm | stxAbs | stxAbsIdx | styImm | styAbs | styAbsIdx =>
    exact determined_store rfl rfl
  | adcImm | adcAbs | adcAbsIdx | adcIndX | adcIndY => exact determined_arith .adc
  | sbcImm | sbcAbs | sbcAbsIdx | sbcIndX | sbcIndY => exact determined_arith .sbc
  | incImm | incAbs | incAbsIdx | incIndX | incIndY => exact determined_incDec .inc rfl rfl
  | decImm | decAbs | decAbsIdx | decIndX | decIndY => exact determined_incDec .dec rfl rfl
  | clc => exact ⟨.carry false, ⟨rfl, rfl⟩, fun _ => rfl⟩
  | sec => exact ⟨.carry true, ⟨rfl, rfl⟩, fun _ => rfl⟩
  | andImm | andAbs | andAbsIdx | andIndX | andIndY => exact determined_logic .and rfl
  | oraImm | oraAbs | oraAbsIdx | oraIndX | oraIndY => exact determined_logic .ora rfl
  | eorImm | eorAbs | eorAbsIdx | eorIndX | eorIndY => exact determined_logic .eor rfl
  | aslAcc | lsrAcc | rolAcc | rorAcc => exact determined_shift _ _ (fun _ => rfl) (fun _ => rfl) rfl

/-! ### What depends on the unread fields -/

variable {act : Action}

/-- Nothing but `V`, `Z` and `N` comes out otherwise when they go in otherwise (R13). -/
theorem apply_frame (act : Action) (s : State) (v z n : Bool) :
    let t := act.apply s
    let t' := act.apply { s with v := v, z := z, n := n }
    t'.a = t.a ∧ t'.x = t.x ∧ t'.y = t.y ∧ t'.c = t.c ∧ t'.mem = t.mem ∧ t'.resp = t.resp ∧ t'.cfg = t.cfg ∧
      t'.events = t.events := by
  cases act with
  | register r => cases r <;> exact ⟨rfl, rfl, rfl, rfl, rfl, rfl, rfl, rfl⟩
  | data | carry | memory | error => exact ⟨rfl, rfl, rfl, rfl, rfl, rfl, rfl, rfl⟩

theorem apply_v (hfit : act.Fits i) (hv : i.writesV = true) (ht : (act.apply s).answered 0) (v z n : Bool) :
    (act.apply { s with v := v, z := z, n := n }).v = (act.apply s).v := by
  cases act with
  | register r b c w =>
    obtain ⟨w, rfl⟩ := Option.isSome_iff_exists.mp (hfit hv)
    cases r <;> rfl
  | data | carry | memory => exact absurd (hfit.2.symm.trans hv) Bool.false_ne_true
  | error e => exact absurd ((answered_answer ..).mp ht) (errCode_ne_zero e)

theorem apply_zn (hfit : act.Fits i) (hr : i.regWritten ≠ none) (ht : (act.apply s).answered 0) (v z n : Bool) :
    (act.apply { s with v := v, z := z, n := n }).z = (act.apply s).z ∧
      (act.apply { s with v := v, z := z, n := n }).n = (act.apply s).n := by
  cases act with
  | register r => cases r <;> exact ⟨rfl, rfl⟩
  | data | carry | memory => exact absurd hfit.1 hr
  | error e => exact absurd ((answered_answer ..).mp ht) (errCode_ne_zero e)

/-! ### The frame of the write tables -/

theorem effect_keeps_events (h : Effect i s t) : t.events = s.events := by
  cases h with
  | register r => rw [answer_events, written_events]
  | data | carry | memory | registerOverflow | memoryOverflow | outOfRange => rfl

theorem effect_keeps_reg {q : Reg} (h : Effect i s t) (hq : i.regWritten ≠ some q) : t.reg q = s.reg q := by
  cases h with
  | register r b c v hr =>
    have hne : q ≠ r := fun e => hq (e ▸ hr)
    rw [reg_answer, reg_written_of_ne _ hne]
    cases q <;> rfl
  | data | carry | memory | registerOverflow | memoryOverflow | outOfRange => cases q <;> rfl

theorem effect_keeps_c (h : Effect i s t) (hc : i.writesC = false) : t.c = s.c := by
  cases h with
  | register r b c v _ _ hc' => rw [answer_c, written_c]; exact hc' hc
  | carry c _ _ hc' => exact absurd (hc.symm.trans hc') Bool.false_ne_true
  | data | memory | registerOverflow | memoryOverflow | outOfRange => rfl

theorem effect_keeps_v (h : Effect i s t) (hv : i.writesV = false) : t.v = s.v := by
  cases h with
  | register r b c v _ _ _ hv' => rw [answer_v, written_v]; exact hv' hv
  | data | carry | memory | registerOverflow | memoryOverflow | outOfRange => rfl

theorem effect_keeps_mem (h : Effect i s t) (hm : i.writesMem = false) : t.mem = s.mem := by
  cases h with
  | register r => rw [answer_mem, written_mem]
  | memory _ _ _ _ _ _ _ _ hm' => exact absurd (hm.symm.trans hm') Bool.false_ne_true
  | data | carry | registerOverflow | memoryOverflow | outOfRange => rfl

end Sys2Proof.Machine

open Sys2Proof Sys2Proof.Machine

/-- Settles O16: the failing command's action is an error in any state with the same registers, carry, memory and
configuration, and the state it left is one. -/
theorem failingCommandFailsAgain : Obligations.FailingCommandFailsAgain := by
  unfold Obligations.FailingCommandFailsAgain
  intro i s t r h ht hr
  obtain ⟨act, -, hact⟩ := exec_determined i s
  obtain rfl : act.apply s = t := Host.Outcome.next.inj ((hact s).symm.trans h)
  obtain ⟨e, rfl⟩ := apply_failed (not_answered_zero ht hr)
  obtain rfl := Option.some.inj ht
  exact ⟨_, _, hact (s.answer e.code)⟩

/-- Settles O19, by what each effect of a command leaves unchanged. -/
theorem commandsWriteOnlyWhatTheTablesSay : Obligations.CommandsWriteOnlyWhatTheTablesSay := by
  unfold Obligations.CommandsWriteOnlyWhatTheTablesSay
  intro i s t h
  have he : Effect i s t := effect_of_exec h
  exact ⟨effect_keeps_cfg he, effect_keeps_events he, fun _ => effect_keeps_reg he, effect_keeps_c he,
    effect_keeps_v he, effect_keeps_zn he, effect_keeps_mem he⟩

/-- Settles O21: a command has the same action whatever `V`, `Z` and `N` hold. -/
theorem overflowZeroNegativeAreNeverRead : Obligations.OverflowZeroNegativeAreNeverRead := by
  unfold Obligations.OverflowZeroNegativeAreNeverRead
  intro i s v z n
  obtain ⟨act, hfit, hact⟩ := exec_determined i s
  obtain ⟨ha, hx, hy, hc, hmem, hresp, hcfg, hev⟩ := apply_frame act s v z n
  exact ⟨act.apply s, act.apply { s with v := v, z := z, n := n }, hact s, hact { s with v := v, z := z, n := n },
    ha, hx, hy, hc, hmem, hresp, hcfg, hev, fun hv ht => apply_v hfit hv ht v z n,
    fun hr ht => apply_zn hfit hr ht v z n⟩

/-- Settles O22: a command has the same action whatever response stands, and the action replaces it. -/
theorem earlierResponsesAreNeverRead : Obligations.EarlierResponsesAreNeverRead := by
  unfold Obligations.EarlierResponsesAreNeverRead
  intro i s p
  obtain ⟨act, -, hact⟩ := exec_determined i s
  calc exec i { s with resp := p }
    _ = .next (act.apply { s with resp := p }) := hact { s with resp := p }
    _ = .next (act.apply s) := by rw [apply_resp]
    _ = exec i s := (hact s).symm

end

section
/-!
Corner cases: a read after a write (20_memory.md R43), ADC under `DOCUMENTED` and SBC (42_adc_sbc.md R110, R111), and
nine rotates (44_logic_shift_ext.md R168, R169).
-/

namespace Sys2Proof.Machine

variable {i : Instr} {s t u : State} {m : Byte}

/-- The next state of a command that is known to answer is the state it answers, but for the two ports. -/
theorem sameArch_of_answers {e : BitVec 3} (h : Answers i s e u) (hx : exec i s = .next t) : u.sameArch t := by
  obtain ⟨d, k, h⟩ := h
  rw [h] at hx
  cases hx
  exact ⟨rfl, rfl, rfl, rfl, rfl, rfl, rfl, rfl, rfl⟩

/-! ### A completed MEMWR -/

theorem memwr_completed {arg val : Half} (hx : exec (.memwr arg val) s = .next t) (ht : t.answered 0) :
    val.toNat ≤ 255 ∧ t = (s.putMem (s.mem.writeMirrored arg.toNat (BitVec.ofInt 8 val.toNat))).answer errOk := by
  rw [exec_memwr] at hx
  rcases conclude_eq_next hx with ⟨u, hu, rfl⟩ | ⟨e, -, rfl⟩
  · obtain ⟨-, hval, -, rfl⟩ := memWrite_eq_ok hu
    exact ⟨by omega, rfl⟩
  · exact absurd ((answered_answer ..).mp ht) (errCode_ne_zero e)

/-! ### ADC under `DOCUMENTED` -/

/-- The raw sum of R110. -/
def State.adcSum (s : State) (m : Byte) : Nat := s.a.toNat + m.toNat + s.c.toNat

/-- The byte `DOCUMENTED` commits: the sum, at most 0xFF (R110). -/
def State.clampedSum (s : State) (m : Byte) : Byte := BitVec.ofNat 8 (min 255 (s.adcSum m))

theorem afterAdc_documented (hp : s.cfg.arithProfile = .documented) (m : Byte) : s.afterAdc m =
    ({ s with c := decide (255 < s.adcSum m), v := s.a.msb != (s.clampedSum m).msb } : State).written .a
      (s.clampedSum m) := by
  have hres : s.clampedSum m = if s.adcSum m ≤ 255 then BitVec.ofNat 8 (s.adcSum m) else 0xFF := by
    unfold State.clampedSum
    split
    case isTrue h => rw [Nat.min_eq_right h]
    case isFalse h => rw [Nat.min_eq_left (by omega)]; rfl
  rw [hres, State.afterAdc]
  simp only [hp]
  rfl

theorem toNat_clampedSum (s : State) (m : Byte) : (s.clampedSum m).toNat = min 255 (s.adcSum m) := by
  rw [State.clampedSum, BitVec.toNat_ofNat]
  omega

theorem clampedSum_of_carry (h : 255 < s.adcSum m) : s.clampedSum m = 0xFF := by
  rw [State.clampedSum, Nat.min_eq_left (by omega)]
  rfl

theorem clampedSum_eq_zero_iff : s.clampedSum m = 0 ↔ s.a = 0 ∧ m = 0 ∧ s.c = false := by
  rw [← BitVec.toNat_inj, ← BitVec.toNat_inj, ← BitVec.toNat_inj, toNat_clampedSum, State.adcSum]
  cases s.c <;> simp

/-- The sign changes only upwards: the committed byte is no smaller than the old accumulator. -/
theorem clampedSum_overflow_iff :
    (s.a.msb != (s.clampedSum m).msb) = true ↔ s.a.toNat < 0x80 ∧ 0x80 ≤ s.adcSum m := by
  have hle : s.a.toNat ≤ s.adcSum m := by unfold State.adcSum; omega
  simp only [BitVec.msb_eq_decide, toNat_clampedSum, bne_iff_ne, ne_eq, decide_eq_decide]
  omega

theorem negFlag_ff (cfg : Config) : negFlag cfg 0xFF = true := by
  unfold negFlag
  cases cfg.nflagRule <;> rfl

/-! ### SBC -/

/-- In both profiles SBC commits the raw difference modulo 256, and carries when it is not negative (R111). -/
theorem afterSbc_eq (s : State) (m : Byte) : ∃ v, s.afterSbc m =
    ({ s with c := decide (0 ≤ sbcRaw s.a m s.c), v := v } : State).written .a (BitVec.ofInt 8 (sbcRaw s.a m s.c)) := by
  have hraw : sbcRaw s.a m s.c = (s.a.toNat : Int) - m.toNat - (if s.c then 0 else 1) := by
    unfold sbcRaw; cases s.c <;> rfl
  rw [hraw]
  unfold State.afterSbc
  cases s.cfg.arithProfile <;> exact ⟨_, rfl⟩

theorem sbcRaw_eq_min_iff (a m : Byte) (c : Bool) : sbcRaw a m c = -256 ↔ a = 0x00 ∧ m = 0xFF ∧ c = false := by
  have ha := a.isLt
  have hm := m.isLt
  rw [← BitVec.toNat_inj, ← BitVec.toNat_inj, sbcRaw]
  cases c <;> simp <;> omega

theorem sbcRaw_self (a : Byte) : sbcRaw a a true = 0 := by simp [sbcRaw]

/-- A - A with the carry set leaves 0x00; the sign rules of the two profiles differ on it (log entry 16). -/
theorem afterSbc_self (hc : s.c = true) : (s.cfg.arithProfile = .mos6502 → (s.afterSbc s.a).v = false) ∧
    (s.cfg.arithProfile = .documented → (s.afterSbc s.a).v = s.a.msb) := by
  constructor <;> intro hp <;> simp [State.afterSbc, hp, hc]

/-! ### Rotates -/

/-- `C` above `A`: the nine bits a rotate turns (R168, R169). -/
def State.ring (s : State) : BitVec 9 := BitVec.cons s.c s.a

theorem eq_of_ring_eq (h : s.ring = t.ring) : s.a = t.a ∧ s.c = t.c := by
  have ha := congrArg (BitVec.setWidth 8) h
  have hc := congrArg BitVec.msb h
  simp only [State.ring, BitVec.setWidth_cons, BitVec.msb_cons] at ha hc
  exact ⟨ha, hc⟩

theorem cons_rol (a : Byte) (c : Bool) :
    BitVec.cons a.msb (a <<< 1 ||| BitVec.setWidth 8 (BitVec.ofBool c)) = (BitVec.cons c a).rotateLeft 1 := by
  revert a c; decide

theorem cons_ror (a : Byte) (c : Bool) :
    (BitVec.cons a[0] (a >>> 1 ||| BitVec.ofBool c ++ 0#7)).rotateLeft 1 = BitVec.cons c a := by
  revert a c; decide

theorem ring_rol (h : exec .rolAcc s = .next t) : t.ring = s.ring.rotateLeft 1 := by
  have hans := answers_of_shift (i := .rolAcc) rfl (testBit_seven s.a) (rolResult_eq s.a s.c)
  obtain ⟨-, ha, -, -, hc, -⟩ := sameArch_of_answers hans h
  rw [State.ring, ha, hc]
  exact cons_rol s.a s.c

/-- A ROR is undone by turning back to the left. -/
theorem ring_ror (h : exec .rorAcc s = .next t) : s.ring = t.ring.rotateLeft 1 := by
  have hans := answers_of_shift (i := .rorAcc) rfl (testBit_zero s.a) (rorResult_eq s.a s.c)
  obtain ⟨-, ha, -, -, hc, -⟩ := sameArch_of_answers hans h
  rw [State.ring, State.ring, ha, hc]
  exact (cons_ror s.a s.c).symm

theorem rotateLeft_rotateLeft {n : Nat} (x : BitVec n) (j k : Nat) :
    (x.rotateLeft j).rotateLeft k = x.rotateLeft (j + k) := by
  apply BitVec.eq_of_getMsbD_eq
  intro l hl
  simp only [BitVec.getMsbD_rotateLeft, Nat.mod_lt _ (Nat.zero_lt_of_lt hl), hl, decide_true, Bool.true_and]
  rw [Nat.add_mod_mod, Nat.add_assoc]

theorem rotateLeft_zero {n : Nat} (x : BitVec n) : x.rotateLeft 0 = x := by
  simp [BitVec.rotateLeft_def, BitVec.ushiftRight_eq_zero]

/-- A whole turn changes nothing. -/
theorem rotateLeft_width {n : Nat} (x : BitVec n) : x.rotateLeft n = x := by
  rw [← BitVec.rotateLeft_mod_eq_rotateLeft, Nat.mod_self, rotateLeft_zero]

/-- Values of which each is the one before turned by one are turned by their distance. -/
theorem rotateLeft_of_steps {n k : Nat} {x : Nat → BitVec n} (h : ∀ j, j < k → x (j + 1) = (x j).rotateLeft 1) :
    x k = (x 0).rotateLeft k := by
  induction k with
  | zero => exact (rotateLeft_zero _).symm
  | succ k ih => rw [h k (by omega), ih fun j hj => h j (by omega), rotateLeft_rotateLeft]

/-- Values of which each is the one after turned by one are turned back by their distance. -/
theorem rotateLeft_of_steps_back {n k : Nat} {x : Nat → BitVec n} (h : ∀ j, j < k → x j = (x (j + 1)).rotateLeft 1) :
    x 0 = (x k).rotateLeft k := by
  induction k with
  | zero => exact (rotateLeft_zero _).symm
  | succ k ih => rw [ih fun j hj => h j (by omega), h k (by omega), rotateLeft_rotateLeft, Nat.add_comm]

end Sys2Proof.Machine

open Sys2Proof Sys2Proof.Machine

/-- Settles O24, by which cells a write reaches and MEMRD changing nothing but the response. -/
theorem memrdSeesTheLatestMemwr : Obligations.MemrdSeesTheLatestMemwr := by
  unfold Obligations.MemrdSeesTheLatestMemwr
  intro s t a v b h ht hb
  obtain ⟨hv, rfl⟩ := memwr_completed h ht
  obtain ⟨hreached, hother⟩ := read_writeMirrored s.mem a.toNat b.toNat (BitVec.ofInt 8 v.toNat)
  refine ⟨_, exec_memrd_ok hb, fun hr => ?_, hother⟩
  rw [answer_mem, putMem_mem, hreached hr, BitVec.toNat_ofInt]
  omega

/-- Settles O41, by what the sum clamped at 0xFF is when it carries, when it is zero, and where its sign lies. -/
theorem documentedAdcCornerCases : Obligations.DocumentedAdcCornerCases := by
  unfold Obligations.DocumentedAdcCornerCases
  intro s t m hp hx
  have hans : Answers (.adcImm m) s 0 (s.afterAdc m) := answers_arith_literal .adc m s
  rw [afterAdc_documented hp] at hans
  obtain ⟨-, ha, -, -, hc, hv, hz, hn, -⟩ := sameArch_of_answers hans hx
  have hoverflow : t.v = true ↔ s.a.toNat < 0x80 ∧ 0x80 ≤ s.adcSum m := by
    rw [hv]; exact clampedSum_overflow_iff
  refine ⟨fun hcarry => ?_, ?_, hoverflow⟩
  · have hsum : 255 < s.adcSum m := of_decide_eq_true (hc.symm.trans hcarry)
    have hres : s.clampedSum m = 0xFF := clampedSum_of_carry hsum
    refine ⟨ha.trans hres, ?_, ?_, hoverflow.trans (and_iff_left (by omega))⟩
    · rw [hz, written_z, hres]; rfl
    · rw [hn, written_n, hres]; exact negFlag_ff _
  · rw [hz, written_z, decide_eq_true_iff]
    exact clampedSum_eq_zero_iff

/-- Settles O42, by the raw difference: -256 for 0x00 - 0xFF with borrow only, and 0 for A - A without. -/
theorem sbcCornerCases : Obligations.SbcCornerCases := by
  unfold Obligations.SbcCornerCases
  have hans (s : State) (m : Byte) : Answers (.sbcImm m) s 0 (s.afterSbc m) := answers_arith_literal .sbc m s
  refine ⟨fun s t ha hc hx => ?_, sbcRaw_eq_min_iff, fun s t hc hx => ?_⟩
  · obtain ⟨v, hs⟩ := afterSbc_eq s 0xFF
    rw [(sbcRaw_eq_min_iff s.a 0xFF s.c).mpr ⟨ha, rfl, hc⟩] at hs
    obtain ⟨-, ha', -, -, hc', -, hz', -⟩ := sameArch_of_answers (hs ▸ hans s 0xFF) hx
    exact ⟨ha', hc', hz'⟩
  · obtain ⟨v, hs⟩ := afterSbc_eq s s.a
    rw [hc, sbcRaw_self] at hs
    obtain ⟨-, ha', -, -, hc', hv', hz', -⟩ := sameArch_of_answers (hans s s.a) hx
    obtain ⟨hmos, hdoc⟩ := afterSbc_self hc
    rw [hs] at ha' hc' hz'
    exact ⟨ha', hc', hz', fun hp => hv'.trans (hmos hp), fun hp => hv'.trans (hdoc hp)⟩

/-- Settles O54: a ROL turns the nine bits of `C` and `A` by one, a ROR turns them back, and nine make a whole turn. -/
theorem nineRotatesRestoreAccumulatorAndCarry : Obligations.NineRotatesRestoreAccumulatorAndCarry := by
  unfold Obligations.NineRotatesRestoreAccumulatorAndCarry
  rintro i s (rfl | rfl) h
  case inl =>
    have hturn : (s 9).ring = (s 0).ring.rotateLeft 9 :=
      rotateLeft_of_steps (x := fun k => (s k).ring) fun k hk => ring_rol (h k hk)
    rw [rotateLeft_width] at hturn
    exact eq_of_ring_eq hturn
  case inr =>
    have hturn : (s 0).ring = (s 9).ring.rotateLeft 9 :=
      rotateLeft_of_steps_back (x := fun k => (s k).ring) fun k hk => ring_ror (h k hk)
    rw [rotateLeft_width] at hturn
    exact eq_of_ring_eq hturn.symm

end
